-- ==== Sys2Proof/Word.lean ====
section
/-! DEFINITION. The word types of the two blocks (spec/00_scope.md R6, R8; spec/30_encoding.md R61, R62).

The bare FIFO's items have `W` bits with `W` a construction parameter (R6), so an item is a natural number below
`2 ^ W`; the sequencer's items are bytes. -/

namespace Sys2Proof

/-- One item of the receive FIFO, one operand of SEND, one value of `THR` and `RHR`: 8 bits. -/
abbrev Byte := BitVec 8

/-- The value of the baud-rate register and of the strap `cfg_baud`: 32 bits (10_state.md R19). -/
abbrev Word32 := BitVec 32

end Sys2Proof
end

