-- ==== Sys2Proof/Config.lean ====
section
/-! DEFINITION. What an implementation fixes and the spec leaves open: the parameters of the two blocks
(spec/00_scope.md R6, R7), the abstract registers of the peripheral with the values an access can carry
(spec/10_state.md R25 to R36, spec/20_memory.md R55, spec/30_encoding.md R72), and the free values: constants with
no body, of which no proof can learn anything. -/

namespace Sys2Proof

/-- The controller identity: "one of three fixed values" (10_state.md R20, R36; 30_encoding.md R71). -/
inductive CtrlId
  | first
  | second
  | third
  deriving DecidableEq, Repr, Inhabited

/-- Which realization of the backend primitives is wired in (00_scope.md R7, 10_state.md R22). -/
inductive Backend
  | hardware
  | mock
  deriving DecidableEq, Repr, Inhabited

/-- The two multiplexer functions (10_state.md R27, 42_backend_primitives.md R150). -/
inductive MuxFn
  | main
  | alt
  deriving DecidableEq, Repr, Inhabited

/-- Who owns a pin (10_state.md R26). -/
inductive PinOwner
  | gpio
  | peripheral
  deriving DecidableEq, Repr, Inhabited

/-- The two signal lines of a controller identity. -/
inductive Line
  | rx
  | tx
  deriving DecidableEq, Repr, Inhabited

/-- One physical pin. The table `PINS` is OPEN with six distinct pins (10_state.md R36); a pin is named by the
entry of the table it stands in, which loses nothing (DEDUCED, log entry 11). -/
structure Pin where
  ctrl : CtrlId
  line : Line
  deriving DecidableEq, Repr, Inhabited

/-- The pair of signal lines `(rx_pin, tx_pin)`. -/
structure PinPair where
  rx : Pin
  tx : Pin
  deriving DecidableEq, Repr, Inhabited

/-- Field `PARITY` of `MR` (10_state.md R31). The sequencer writes `none`; what the platform left may be another. -/
inductive Parity
  | none
  | other (code : Nat)
  deriving DecidableEq, Repr, Inhabited

/-- Field `CHMODE` of `MR` (10_state.md R31). -/
inductive ChMode
  | normal
  | other (code : Nat)
  deriving DecidableEq, Repr, Inhabited

/-- Every field of `MR` that the spec does not name (42_backend_primitives.md R139): the encoding the peripheral
reads as its plain default, or anything else (log entry 18). -/
inductive ModeRest
  | plainDefault
  | other (code : Nat)
  deriving DecidableEq, Repr, Inhabited

/-- A value of `MR`, the frame format (10_state.md R31). -/
structure FrameFormat where
  dataBits : Nat
  parity : Parity
  chMode : ChMode
  rest : ModeRest
  deriving DecidableEq, Repr, Inhabited

/-- The ten abstract registers of the peripheral (10_state.md R25). -/
inductive PReg
  | pmxOwn
  | pmxFn
  | clkEn
  | cr
  | brg
  | mr
  | imr
  | sr
  | thr
  | rhr
  deriving DecidableEq, Repr, Inhabited

/-- The abstract value an access carries (20_memory.md R55). -/
inductive PVal
  /-- `{rx_pin, tx_pin} -> owner`, register `PMX_OWN`. -/
  | owner (pins : PinPair) (o : PinOwner)
  /-- `{rx_pin, tx_pin} -> function`, register `PMX_FN`. -/
  | function (pins : PinPair) (f : MuxFn)
  /-- The clock gate, register `CLK_EN`. -/
  | clock (enabled : Bool)
  /-- `TXEN` and `RXEN`, register `CR`. -/
  | enables (txen rxen : Bool)
  /-- `DIV`, register `BRG`. -/
  | divisor (div : Nat)
  /-- The frame format, register `MR`. -/
  | frame (m : FrameFormat)
  /-- All interrupt sources masked, register `IMR`. -/
  | intMask (allMasked : Bool)
  /-- The flag `SR.TXRDY`. -/
  | txrdy (bit : Bool)
  /-- The flag `SR.RXRDY`. -/
  | rxrdy (bit : Bool)
  /-- A byte written to `THR`. -/
  | txchr (byte : Byte)
  /-- A byte read from `RHR`. -/
  | rxchr (byte : Byte)
  deriving DecidableEq, Repr, Inhabited

/-- Direction of an access (30_encoding.md R72). -/
inductive Dir
  | read
  | write
  deriving DecidableEq, Repr, Inhabited

/-- One event of the event history: the record `(dir, c, reg, value)` of 30_encoding.md R72. -/
structure Event where
  dir : Dir
  c : CtrlId
  reg : PReg
  value : PVal
  deriving DecidableEq, Repr, Inhabited

/-- The last value written to each register the sequencer writes, for one controller identity: the shadow that
10_state.md R25 allows a model to keep. `SR` and `RHR` are not here: every read of them is a draw (R33, R35). -/
structure PeriphRegs where
  pmxOwnRx : PinOwner
  pmxOwnTx : PinOwner
  pmxFnRx : MuxFn
  pmxFnTx : MuxFn
  clkEn : Bool
  txen : Bool
  rxen : Bool
  brg : Nat
  mr : FrameFormat
  imrAllMasked : Bool
  thr : Byte
  deriving DecidableEq, Repr, Inhabited

/-- The parameters of the two blocks, fixed at construction (00_scope.md R6, R7). The spec takes the OPEN ones as
arguments of the model; they stand in the state's field `cfg`, which no step writes (log entry 6). -/
structure Params where
  /-- `W`, width of an item of the bare FIFO. -/
  w : Nat
  /-- `N`, capacity of the bare FIFO. -/
  n : Nat
  /-- `DEFAULT`, what POP and PEEK return on the empty bare FIFO. -/
  dflt : Nat
  /-- `BACKEND`. -/
  backend : Backend
  /-- `N_RX`, capacity of the receive FIFO. -/
  nRx : Nat
  /-- `CLK_CONST`, the fixed clock constant of the divisor formula. -/
  clkConst : Nat
  /-- `BRG_W`, width of the divisor register. -/
  brgW : Nat
  /-- `ALT_CTRL`, the one identity that takes the alternate multiplexer function. -/
  altCtrl : CtrlId
  deriving DecidableEq, Repr, Inhabited

/-- What the mock backend's `receiveByte` returns: fixed by the source (00_scope.md R7). -/
def Config.mockSentinel : Byte := 0xAA

/-- `DEFAULT` of the receive FIFO (10_state.md R21). -/
def Config.rxDefault : Byte := 0

/-- The strap `cfg_eager` where a construction does not give it: "default true" (00_scope.md R7). -/
def Config.eagerDefault : Bool := true

/-- A read of `SR` or `RHR` that no script decides: a free draw (20_memory.md R54; 93 U9). The argument counts the
draws of the run, so that no law links two of them. -/
opaque Config.draw : Nat → Byte

/-- What a slot of the bare FIFO holds when nothing has stored into it since reset: "no value" that a proof could
read (10_state.md R37; 93 U10). -/
opaque Config.unwrittenItem : Nat → Nat

/-- What a slot of the receive FIFO holds when nothing has stored into it since reset (10_state.md R37; 93 U10). -/
opaque Config.unwrittenByte : Nat → Byte

/-- The peripheral registers of each identity as the platform left them (10_state.md R37; 93 U11). -/
opaque Config.platformRegs : CtrlId → PeriphRegs

/-- `BACKEND` of the machine that `State.reset` describes: OPEN. -/
opaque Config.backend : Backend

/-- The highest slot number of the bare FIFO of `State.reset`: `N - 1`, OPEN; so `N >= 1` (00_scope.md R6). -/
opaque Config.lastSlot : Nat

/-- The highest slot number of the receive FIFO of `State.reset`: `N_RX - 1`, OPEN; so `N_RX >= 1`. -/
opaque Config.lastRxSlot : Nat

/-- `CLK_CONST - 1` of `State.reset`, OPEN; so `CLK_CONST` is positive (00_scope.md R7). -/
opaque Config.clkConstPred : Nat

/-- `BRG_W` of `State.reset`, OPEN. -/
opaque Config.brgWidth : Nat

/-- `ALT_CTRL` of `State.reset`, OPEN (42_backend_primitives.md R150). -/
opaque Config.altCtrl : CtrlId

/-- The parameters of `State.reset`: the FIFO instance the opcode table shows (`W = 8`, and `DEFAULT = 0` for bytes,
00_scope.md R6), every OPEN parameter a constant without a body (log entry 6). -/
def Config.params : Params where
  w := 8
  n := Config.lastSlot + 1
  dflt := 0
  backend := Config.backend
  nRx := Config.lastRxSlot + 1
  clkConst := Config.clkConstPred + 1
  brgW := Config.brgWidth
  altCtrl := Config.altCtrl

end Sys2Proof
end

