-- ==== Sys2Proof/Syntax.lean ====
section
/-! DEFINITION. The commands of the two blocks: one constructor for each row of spec/opcode_table.json
(spec/30_encoding.md R64, R65), the port each belongs to (R60), and the pseudo-instructions (R70), which have no
encoding. -/

namespace Sys2Proof

/-- The two command ports (30_encoding.md R60): the FIFO's takes F-format words, the sequencer's S-format words. -/
inductive Port
  | fifo
  | seq
  deriving DecidableEq, Repr

/-- The thirteen commands. -/
inductive Instr
  /-- PUSH item (40_fifo_ops.md R81). The item has `W` bits; `W` is a parameter of the FIFO, so it is a number. -/
  | push (item : Nat)
  /-- POP (R82). -/
  | pop
  /-- PEEK (R83). -/
  | peek
  /-- CLEAR (R84). -/
  | clear
  /-- COUNT (R85). -/
  | count
  /-- BEGIN (41_connection_ops.md R102). -/
  | begin
  /-- AVAILABLE (R103). -/
  | available
  /-- SEND byte (R104). -/
  | send (byte : Byte)
  /-- RECEIVE (R105). -/
  | receive
  /-- ISINIT (R106). -/
  | isinit
  /-- ENABLE (R107). -/
  | enable
  /-- DISABLE (R108). -/
  | disable
  /-- DESTROY (R109). -/
  | destroy
  deriving DecidableEq, Repr

/-- The port a command is presented on (30_encoding.md R60, R64, R65). -/
def Instr.port : Instr → Port
  | .push _ => .fifo
  | .pop => .fifo
  | .peek => .fifo
  | .clear => .fifo
  | .count => .fifo
  | .begin => .seq
  | .available => .seq
  | .send _ => .seq
  | .receive => .seq
  | .isinit => .seq
  | .enable => .seq
  | .disable => .seq
  | .destroy => .seq

/-- Why a word is reserved (30_encoding.md R66). -/
inductive DecodeError
  /-- The opcode is one of the reserved values of R64 or R65. -/
  | reservedOpcode (op : Nat)
  /-- The opcode names a command without an operand and the low field is not all zero. -/
  | operandBits (op low : Nat)
  deriving DecidableEq, Repr

/-- The pseudo-instructions of 30_encoding.md R70, which the host expands (41_connection_ops.md R110 to R114). -/
inductive Pseudo
  /-- SENDN: send a length-delimited byte sequence (R110). -/
  | sendn (bytes : List Byte)
  /-- SENDZ: send zero-terminated text (R111). -/
  | sendz (bytes : List Byte)
  /-- PUTC: stream-style single-character write (R112). -/
  | putc (byte : Byte)
  /-- GETC: stream-style single-character read (R113). -/
  | getc
  /-- INS of one byte (R114). -/
  | ins (byte : Byte)
  /-- INS of a byte sequence (R114): SENDN with its result discarded. -/
  | insBytes (bytes : List Byte)
  /-- INS of text (R114): SENDZ with its result discarded. -/
  | insText (bytes : List Byte)
  /-- EXT of one byte (R114). -/
  | ext
  deriving DecidableEq, Repr

end Sys2Proof
end

