-- ==== Sys2Proof/Machine/State.lean ====
section
/-! DEFINITION. The state of the two blocks, of the environment they drive, and of their ports
(spec/10_state.md; spec/20_memory.md R54, R55; spec/30_encoding.md R60, R67, R73), the reasons a step stops, and the
state after reset (10_state.md R37). -/

namespace Sys2Proof.Machine

/-- The hardware raises no exception, trap or fault of any kind (60_exceptions.md R160, R169), so no constructor
stands here: no step of the model faults (log entry 20). -/
inductive Fault
  deriving DecidableEq, Repr

/-- The edges of what the spec gives a meaning (60_exceptions.md R176). All are safe: the model stops where an
implementation might go on, so no claim about what then happens can be proved. -/
inductive Refusal
  /-- Raised by `exec` for a command without a meaning yet; no arm answers it. Safe. -/
  | notModelled (mnemonic : String)
  /-- Raised when a reserved word is taken (30_encoding.md R66). Safe. -/
  | reservedEncoding
  /-- Raised by every sequencer command after DESTROY (41_connection_ops.md R109). Safe. -/
  | notAlive
  /-- Raised by a construction with `cfg_ctrl = 3` (30_encoding.md R71). Safe. -/
  | badController
  /-- Raised by a construction with `cfg_baud = 0` (70_reset_and_hazards.md R192). Safe. -/
  | badBaud
  /-- Raised by a BEGIN whose divisor does not fit `BRG` (42_backend_primitives.md R138). Safe. -/
  | divisorTooWide
  /-- Raised by a reset of a FIFO with no slot (70_reset_and_hazards.md R191). Safe. -/
  | badCapacity
  /-- Raised by SENDZ of a sequence with no zero byte (41_connection_ops.md R111). Safe. -/
  | noTerminator
  /-- Raised by a construction on an identity another live connection holds (60_exceptions.md R173). Safe. -/
  | sharedController
  deriving DecidableEq, Repr

/-- The FIFO block, `RingBuffer<T, N>`: exactly four pieces of state (10_state.md R10). `slots` lists the slots stored
into since reset, by rising number, so that equal contents are equal lists; an unlisted slot has no stored value. -/
structure Fifo (α : Type) where
  slots : List (Nat × α)
  rd : Nat
  wr : Nat
  count : Nat
  deriving DecidableEq, Repr

/-- The phases of a sequencer command, the values 0 to 13 of the 4-bit register `seq` (41_connection_ops.md R117). -/
inductive Phase
  | idle
  | bRelease
  | bAssign
  | bClock
  | bDisable
  | bBaud
  | bMode
  | bImask
  | bEnable
  | bDone
  | sPoll
  | sWrite
  | aPoll
  | aRead
  deriving DecidableEq, Repr

/-- The construction straps, sampled in the reset step (30_encoding.md R73). -/
structure Straps where
  baud : Word32
  ctrl : BitVec 2
  eager : Bool := Config.eagerDefault
  deriving DecidableEq, Repr

/-- What the host puts on the ports in one step (30_encoding.md R60, R74; log entry 2). -/
inductive Input
  /-- `cmd_valid = 0` on both ports. -/
  | idle
  /-- An F-format word on the FIFO's port. -/
  | fifoCmd (word : Nat)
  /-- An S-format word on the sequencer's port. -/
  | seqCmd (word : Nat)
  /-- `rst = 1` on the FIFO block (70_reset_and_hazards.md R190, R191). -/
  | fifoReset
  /-- `rst = 1` on the sequencer with the three straps: CONSTRUCT (R192). -/
  | seqReset (straps : Straps)
  /-- A pseudo-instruction, which the host replaces by its commands (30_encoding.md R70). -/
  | pseudo (p : Pseudo)
  /-- The host notes the result of a SENDN or SENDZ whose commands are done (41_connection_ops.md R110). -/
  | hostResult (success : Bool)
  deriving DecidableEq, Repr

/-- The source of the draws of 20_memory.md R54 (log entry 10): a script of values still to come, then one value for
ever (`rest`), or where there is none a free value for each draw. -/
structure Env where
  script : List Byte
  rest : Option Byte
  drawn : Nat
  deriving DecidableEq, Repr

/-- The environment registers `P[c]` of the three controller identities (10_state.md R25). -/
structure PeriphBank where
  first : PeriphRegs
  second : PeriphRegs
  third : PeriphRegs
  deriving DecidableEq, Repr

/-- Everything the spec gives the machine. The fields from `cfg` on are listed in INVENTORY.md under State. -/
structure State where
  /-- The parameters of the construction (00_scope.md R6, R7); written by no step. -/
  cfg : Params
  /-- The bare FIFO block (10_state.md R10). -/
  fifo : Fifo Nat
  /-- The FIFO's response port in the step last taken; `none` is `rsp_valid = 0` (30_encoding.md R67). -/
  fifoRsp : Option Nat
  /-- The responses the FIFO has driven since its reset, oldest first (70_reset_and_hazards.md R211). -/
  fifoLog : List Nat
  /-- 10_state.md R18. -/
  initialized : Bool
  /-- 10_state.md R19. -/
  baud : Word32
  /-- 10_state.md R20. -/
  ctrl : CtrlId
  /-- The receive FIFO (10_state.md R21). -/
  rx : Fifo Byte
  /-- 10_state.md R23. -/
  seq : Phase
  /-- 10_state.md R24. -/
  alive : Bool
  /-- The operand of the SEND in flight (41_connection_ops.md R117, phase 11; log entry 19). -/
  txByte : Byte
  /-- The event history, oldest first (20_memory.md R55). -/
  events : List Event
  /-- The sequencer's response port in the step last taken (30_encoding.md R67). -/
  seqRsp : Option Nat
  /-- The responses the sequencer has driven since its reset, oldest first (70_reset_and_hazards.md R211). -/
  seqLog : List Nat
  /-- The shadow of the peripheral registers (10_state.md R25). -/
  periph : PeriphBank
  /-- The draws of the environment (20_memory.md R54). -/
  env : Env
  /-- The identities other live connections are bound to (60_exceptions.md R173; log entry 12). -/
  othersLive : List CtrlId
  /-- What the host is going to put on the ports, oldest first (30_encoding.md R60; log entry 2). -/
  inputs : List Input
  /-- The results of SENDN and SENDZ the host has noted, oldest first (41_connection_ops.md R110). -/
  hostLog : List Bool
  deriving DecidableEq, Repr

/-- What one step has to do: it is decided already, or a command has been taken and `exec` runs it. -/
inductive Action
  | done (o : Host.Outcome State Fault Refusal)
  | take (i : Instr) (s : State)

/-- A FIFO right after reset: empty, both indices 0, no slot with a value (70_reset_and_hazards.md R191). -/
def Fifo.fresh {α : Type} : Fifo α := { slots := [], rd := 0, wr := 0, count := 0 }

/-- The machine right after reset, before any eager BEGIN (10_state.md R37). The straps are those of the source's one
scenario, baud 115200, THIRD, not eager (DESIGN CHOICE, log entry 7); the parameters are `Config.params` (log entry
6); the peripheral registers are as the platform left them, a free value (log entry 9). -/
def State.reset : State where
  cfg := Config.params
  fifo := Fifo.fresh
  fifoRsp := none
  fifoLog := []
  initialized := false
  baud := 115200#32
  ctrl := .third
  rx := Fifo.fresh
  seq := .idle
  alive := true
  txByte := 0#8
  events := []
  seqRsp := none
  seqLog := []
  periph :=
    { first := Config.platformRegs .first
      second := Config.platformRegs .second
      third := Config.platformRegs .third }
  env := { script := [], rest := none, drawn := 0 }
  othersLive := []
  inputs := []
  hostLog := []

end Sys2Proof.Machine
end

