-- ==== Sys2Proof/Machine/Operands.lean ====
section
/-! DEFINITION. The operand form, the codes of the small fields, the response encodings and the derived register
widths (spec/30_encoding.md R63, R67, R71, R72; spec/00_scope.md R6; spec/41_connection_ops.md R117). -/

namespace Sys2Proof.Machine

/-- The item PUSH stores: the `W`-bit immediate (30_encoding.md R63). A well-formed item is unchanged (log entry
22). -/
def itemOperand (w item : Nat) : Nat := item % 2 ^ w

/-- The text bytes SENDZ sends: those before the first zero byte, or nothing if there is no zero byte
(41_connection_ops.md R111). -/
def beforeZero : List Byte → Option (List Byte)
  | [] => none
  | b :: bs => if b = 0#8 then some [] else (beforeZero bs).map (b :: ·)

/-- The 2-bit code of a controller identity (30_encoding.md R71). -/
def ctrlCode : CtrlId → BitVec 2
  | .first => 0#2
  | .second => 1#2
  | .third => 2#2

/-- The controller identity of a 2-bit code; 3 is reserved (30_encoding.md R71). -/
def ctrlOfCode (code : BitVec 2) : Option CtrlId :=
  if code = 0#2 then some .first
  else if code = 1#2 then some .second
  else if code = 2#2 then some .third
  else none

/-- The register number of the access record (30_encoding.md R72). -/
def regCode : PReg → BitVec 4
  | .pmxOwn => 0#4
  | .pmxFn => 1#4
  | .clkEn => 2#4
  | .cr => 3#4
  | .brg => 4#4
  | .mr => 5#4
  | .imr => 6#4
  | .sr => 7#4
  | .thr => 8#4
  | .rhr => 9#4

/-- The direction bit of the access record (30_encoding.md R72). -/
def dirCode : Dir → BitVec 1
  | .read => 0#1
  | .write => 1#1

/-- The value of the register `seq` in a phase (41_connection_ops.md R117). -/
def phaseCode : Phase → BitVec 4
  | .idle => 0#4
  | .bRelease => 1#4
  | .bAssign => 2#4
  | .bClock => 3#4
  | .bDisable => 4#4
  | .bBaud => 5#4
  | .bMode => 6#4
  | .bImask => 7#4
  | .bEnable => 8#4
  | .bDone => 9#4
  | .sPoll => 10#4
  | .sWrite => 11#4
  | .aPoll => 12#4
  | .aRead => 13#4

/-- The register an access value belongs to (20_memory.md R55). -/
def regOf : PVal → PReg
  | .owner _ _ => .pmxOwn
  | .function _ _ => .pmxFn
  | .clock _ => .clkEn
  | .enables _ _ => .cr
  | .divisor _ => .brg
  | .frame _ => .mr
  | .intMask _ => .imr
  | .txrdy _ => .sr
  | .rxrdy _ => .sr
  | .txchr _ => .thr
  | .rxchr _ => .rhr

/-- The access record of an event as an implementation sees it: direction, identity and register number (30_encoding.md
R72), with the abstract value. -/
def eventRecord (e : Event) : BitVec 1 × BitVec 2 × BitVec 4 × PVal :=
  (dirCode e.dir, ctrlCode e.c, regCode e.reg, e.value)

/-- The response of a command without a result: `rsp = 0` (30_encoding.md R67). -/
def rspNone : Nat := 0

/-- The response encoding of a boolean (30_encoding.md R67). -/
def rspBool (b : Bool) : Nat := if b then 1 else 0

/-- The response encoding of a byte, zero-extended (30_encoding.md R67). -/
def rspByte (b : Byte) : Nat := b.toNat

/-- The response encoding of a count, zero-extended (30_encoding.md R67). -/
def rspCount (count : Nat) : Nat := count

/-- `CW`, width of `count`: the least `k` with `2^k > N` (00_scope.md R6). -/
def countWidth (n : Nat) : Nat := if n = 0 then 0 else Nat.log2 n + 1

/-- `IW`, width of `rd` and `wr`: the least `k >= 1` with `2^k >= N` (00_scope.md R6). -/
def indexWidth (n : Nat) : Nat := if n ≤ 2 then 1 else Nat.log2 (n - 1) + 1

/-- `RW` of the FIFO's response port: the larger of `W` and `CW` (30_encoding.md R67). -/
def fifoRspWidth (p : Params) : Nat := max p.w (countWidth p.n)

/-- `RW` of the sequencer's response port: the larger of 8 and `CW` of `rx` (30_encoding.md R67). -/
def seqRspWidth (p : Params) : Nat := max 8 (countWidth p.nRx)

end Sys2Proof.Machine
end

