-- ==== Sys2Proof/Machine/Ops.lean ====
section
/-! DEFINITION. The named operations over the two storage spaces (spec/20_memory.md R40 to R42), the FIFO operations
(spec/40_fifo_ops.md R81 to R85), the draws (spec/20_memory.md R54) and the response ports (spec/30_encoding.md R67).

There is no operation that takes an exception and none that returns from one: the hardware has neither
(spec/60_exceptions.md R160, R169, R170). -/

namespace Sys2Proof.Machine

/-- The value stored in a slot since reset, if there is one. -/
def slotFind {α : Type} : List (Nat × α) → Nat → Option α
  | [], _ => none
  | (j, v) :: rest, i => if i = j then some v else slotFind rest i

/-- Store a value in a slot, keeping the list by rising slot number. -/
def slotStore {α : Type} : List (Nat × α) → Nat → α → List (Nat × α)
  | [], i, v => [(i, v)]
  | (j, u) :: rest, i, v =>
    if i < j then (i, v) :: (j, u) :: rest
    else if i = j then (i, v) :: rest
    else (j, u) :: slotStore rest i v

/-- The canonical form of a slot list: strictly rising slot numbers above `low`, where `low` is the slot before. -/
def slotsRiseAbove {α : Type} : Option Nat → List (Nat × α) → Bool
  | _, [] => true
  | none, (j, _) :: rest => slotsRiseAbove (some j) rest
  | some low, (j, _) :: rest => decide (low < j) && slotsRiseAbove (some j) rest

/-- The canonical form of a slot space: strictly rising slot numbers. A slot that is not listed has no value, so no
listed value is the unlisted one. -/
def Fifo.wf {α : Type} (f : Fifo α) : Bool := slotsRiseAbove none f.slots

/-- What slot `i` holds since reset, if anything. -/
def Fifo.stored {α : Type} (f : Fifo α) (i : Nat) : Option α := slotFind f.slots i

/-- SlotRead (20_memory.md R41). A slot nothing has stored into since reset has no defined value: it reads as the free
value `free i` (log entry 8). -/
def Fifo.slotRead {α : Type} (free : Nat → α) (f : Fifo α) (i : Nat) : α := (f.stored i).getD (free i)

/-- SlotWrite (20_memory.md R41). -/
def Fifo.slotWrite {α : Type} (f : Fifo α) (i : Nat) (v : α) : Fifo α :=
  { f with slots := slotStore f.slots i v }

/-- The only index computation: advance by one modulo the capacity (40_fifo_ops.md R88). -/
def advance (n i : Nat) : Nat := (i + 1) % n

/-- PUSH on a FIFO of capacity `n` (40_fifo_ops.md R81): on a full FIFO the item is dropped. -/
def Fifo.push {α : Type} (n : Nat) (item : α) (f : Fifo α) : Fifo α :=
  if f.count = n then f
  else { f.slotWrite f.wr item with wr := advance n f.wr, count := f.count + 1 }

/-- What POP and PEEK return (40_fifo_ops.md R82, R83): the item at the read index, or the default when empty. -/
def Fifo.head {α : Type} (dflt : α) (free : Nat → α) (f : Fifo α) : α :=
  if f.count = 0 then dflt else f.slotRead free f.rd

/-- What POP leaves (40_fifo_ops.md R82). -/
def Fifo.drop {α : Type} (n : Nat) (f : Fifo α) : Fifo α :=
  if f.count = 0 then f else { f with rd := advance n f.rd, count := f.count - 1 }

/-- What CLEAR leaves (40_fifo_ops.md R84): no slot is written. -/
def Fifo.cleared {α : Type} (f : Fifo α) : Fifo α := { f with count := 0, rd := f.wr }

/-- The free value of a bare FIFO slot of width `w`. -/
def freeItem (w i : Nat) : Nat := Config.unwrittenItem i % 2 ^ w

/-- What POP and PEEK on the bare FIFO return. -/
def State.fifoHead (s : State) : Nat := s.fifo.head s.cfg.dflt (freeItem s.cfg.w)

/-- What RECEIVE takes from the receive FIFO: `DEFAULT = 0` (10_state.md R21). -/
def State.rxHead (s : State) : Byte := s.rx.head Config.rxDefault Config.unwrittenByte

/-- Drive the FIFO's response port (30_encoding.md R67). -/
def State.respondFifo (s : State) (v : Nat) : State :=
  { s with fifoRsp := some v, fifoLog := s.fifoLog ++ [v] }

/-- Drive the sequencer's response port (30_encoding.md R67). -/
def State.respondSeq (s : State) (v : Nat) : State :=
  { s with seqRsp := some v, seqLog := s.seqLog ++ [v] }

/-- Both ports at the start of a step: `rsp_valid = 1` only in the step a command completes in (30_encoding.md
R67). -/
def State.quiet (s : State) : State := { s with fifoRsp := none, seqRsp := none }

/-- What the host still has pending (30_encoding.md R60; log entry 2). -/
def State.pending (s : State) (rest : List Input) : State := { s with inputs := rest }

/-- The value of the next draw (20_memory.md R54). -/
def Env.value (e : Env) : Byte :=
  match e.script with
  | b :: _ => b
  | [] => e.rest.getD (Config.draw e.drawn)

/-- The environment after a draw. -/
def Env.next (e : Env) : Env := { script := e.script.tail, rest := e.rest, drawn := e.drawn + 1 }

/-- The registers of one identity (10_state.md R25). -/
def PeriphBank.get (b : PeriphBank) : CtrlId → PeriphRegs
  | .first => b.first
  | .second => b.second
  | .third => b.third

/-- Replace the registers of one identity. -/
def PeriphBank.set (b : PeriphBank) (c : CtrlId) (r : PeriphRegs) : PeriphBank :=
  match c with
  | .first => { b with first := r }
  | .second => { b with second := r }
  | .third => { b with third := r }

/-- The shadow after a write of an access value (10_state.md R26 to R34). The values of reads leave it. -/
def storeReg (r : PeriphRegs) : PVal → PeriphRegs
  | .owner _ o => { r with pmxOwnRx := o, pmxOwnTx := o }
  | .function _ f => { r with pmxFnRx := f, pmxFnTx := f }
  | .clock on => { r with clkEn := on }
  | .enables tx rx => { r with txen := tx, rxen := rx }
  | .divisor d => { r with brg := d }
  | .frame m => { r with mr := m }
  | .intMask m => { r with imrAllMasked := m }
  | .txchr b => { r with thr := b }
  | .txrdy _ => r
  | .rxrdy _ => r
  | .rxchr _ => r

/-- PeriphWrite (20_memory.md R42): one write access by the connection's identity; the event is appended. -/
def State.periphWrite (s : State) (v : PVal) : State :=
  { s with
    events := s.events ++ [{ dir := .write, c := s.ctrl, reg := regOf v, value := v }]
    periph := s.periph.set s.ctrl (storeReg (s.periph.get s.ctrl) v) }

/-- PeriphRead (20_memory.md R42) that returned `v`: the event is appended and the draw is used up. -/
def State.periphRead (s : State) (v : PVal) : State :=
  { s with
    events := s.events ++ [{ dir := .read, c := s.ctrl, reg := regOf v, value := v }]
    env := s.env.next }

/-- Go on with the state of an outcome, if it has one. -/
def onNext (o : Host.Outcome State Fault Refusal) (f : State → State) : Host.Outcome State Fault Refusal :=
  match o with
  | .next s => .next (f s)
  | .fault r => .fault r
  | .refused r => .refused r

/-- A sequencer command runs only on a live connection (41_connection_ops.md R109; 60_exceptions.md R168). -/
def ifAlive (s : State) (o : Host.Outcome State Fault Refusal) : Host.Outcome State Fault Refusal :=
  if s.alive then o else .refused .notAlive

end Sys2Proof.Machine
end

