-- ==== Sys2Proof/Machine/Flags.lean ====
section
/-! DEFINITION. The flag-like values (spec/10_state.md R16, R38; spec/30_encoding.md R60). The hardware has no
condition-code register; each of these is a function of the state or one bit of a draw. -/

namespace Sys2Proof.Machine

/-- Output `empty`: a function of `count` alone (10_state.md R16). -/
def Fifo.empty {α : Type} (f : Fifo α) : Bool := decide (f.count = 0)

/-- Output `full`: a function of `count` alone (10_state.md R16). -/
def Fifo.full {α : Type} (n : Nat) (f : Fifo α) : Bool := decide (f.count = n)

/-- Output `cmd_ready` of the sequencer: it can take a command when no command is in flight (30_encoding.md R60). -/
def State.cmdReady (s : State) : Bool := decide (s.seq = .idle)

/-- The flag a read of `SR` returns: bit 0 of the value drawn (30_encoding.md R74, 10_state.md R33). -/
def State.drawnFlag (s : State) : Bool := s.env.value.getLsbD 0

/-- The divisor a bring-up writes: `CLK_CONST div baud` (42_backend_primitives.md R138). -/
def State.divisor (s : State) : Nat := s.cfg.clkConst / s.baud.toNat

/-- The divisor does not fit the register `BRG` (42_backend_primitives.md R138). -/
def State.divisorTooWide (s : State) : Bool := decide (2 ^ s.cfg.brgW ≤ s.divisor)

end Sys2Proof.Machine
end

