-- ==== Sys2Proof/Machine/Backend.lean ====
section
/-! DEFINITION. The backend primitives and the bring-up sequence, hardware and mock (spec/42_backend_primitives.md
R130 to R150), and the twelve named accesses they are made of (spec/20_memory.md R55). -/

namespace Sys2Proof.Machine

/-- The pin pair of an identity: the table `PINS` (10_state.md R36; log entry 11). -/
def pinsOf (c : CtrlId) : PinPair := { rx := { ctrl := c, line := .rx }, tx := { ctrl := c, line := .tx } }

/-- The table `MUXFN`: exactly one identity takes the alternate function (42_backend_primitives.md R150). -/
def muxFnOf (alt c : CtrlId) : MuxFn := if c = alt then .alt else .main

/-- The one frame format the sequencer writes (42_backend_primitives.md R139). -/
def frame8N1 : FrameFormat := { dataBits := 8, parity := .none, chMode := .normal, rest := .plainDefault }

/-- `PMX_RELEASE` (20_memory.md R55). -/
def State.pmxRelease (s : State) : State := s.periphWrite (.owner (pinsOf s.ctrl) .peripheral)

/-- `PMX_ASSIGN`. -/
def State.pmxAssign (s : State) : State :=
  s.periphWrite (.function (pinsOf s.ctrl) (muxFnOf s.cfg.altCtrl s.ctrl))

/-- `CLK_ENABLE`. -/
def State.clkEnable (s : State) : State := s.periphWrite (.clock true)

/-- `TXRX_DISABLE`. -/
def State.txrxDisable (s : State) : State := s.periphWrite (.enables false false)

/-- `BRG_WRITE` (42_backend_primitives.md R138). -/
def State.brgWrite (s : State) : State := s.periphWrite (.divisor s.divisor)

/-- `MODE_WRITE` (42_backend_primitives.md R139). -/
def State.modeWrite (s : State) : State := s.periphWrite (.frame frame8N1)

/-- `INT_MASK_ALL` (42_backend_primitives.md R140). -/
def State.intMaskAll (s : State) : State := s.periphWrite (.intMask true)

/-- `TXRX_ENABLE`. -/
def State.txrxEnable (s : State) : State := s.periphWrite (.enables true true)

/-- `SR_READ_TX`: the state after; the flag read is `s.drawnFlag`. -/
def State.srReadTx (s : State) : State := s.periphRead (.txrdy s.drawnFlag)

/-- `SR_READ_RX`: the state after; the flag read is `s.drawnFlag`. -/
def State.srReadRx (s : State) : State := s.periphRead (.rxrdy s.drawnFlag)

/-- `THR_WRITE`. -/
def State.thrWrite (s : State) (b : Byte) : State := s.periphWrite (.txchr b)

/-- `RHR_READ`: the state after; the byte read is `s.env.value`. -/
def State.rhrRead (s : State) : State := s.periphRead (.rxchr s.env.value)

/-- `bringUp()`: on hardware the eight accesses in this order (R131), on the mock nothing (R141). -/
def State.bringUp (s : State) : State :=
  match s.cfg.backend with
  | .hardware =>
    s.pmxRelease.pmxAssign.clkEnable.txrxDisable.brgWrite.modeWrite.intMaskAll.txrxEnable
  | .mock => s

/-- The result of `transmitterReady()`: a draw on hardware (R132), true on the mock (R142). -/
def State.transmitterReady (s : State) : Bool :=
  match s.cfg.backend with
  | .hardware => s.drawnFlag
  | .mock => true

/-- The result of `receiverReady()`: a draw on hardware (R133), true on the mock (R143). -/
def State.receiverReady (s : State) : Bool :=
  match s.cfg.backend with
  | .hardware => s.drawnFlag
  | .mock => true

/-- The state after `receiverReady()`. -/
def State.receiverPolled (s : State) : State :=
  match s.cfg.backend with
  | .hardware => s.srReadRx
  | .mock => s

/-- The result of `receiveByte()`: a draw on hardware (R135), the sentinel on the mock (R145). -/
def State.receivedByte (s : State) : Byte :=
  match s.cfg.backend with
  | .hardware => s.env.value
  | .mock => Config.mockSentinel

/-- The state after `receiveByte()`. -/
def State.byteReceived (s : State) : State :=
  match s.cfg.backend with
  | .hardware => s.rhrRead
  | .mock => s

/-- One turn of `sendByte(b)`: on hardware one poll and, if it answered ready, the write (R134); on the mock nothing
(R144). Whether the byte was accepted in this turn is `s.transmitterReady`. -/
def State.sendTurn (s : State) (b : Byte) : State :=
  match s.cfg.backend with
  | .hardware => if s.drawnFlag then s.srReadTx.thrWrite b else s.srReadTx
  | .mock => s

/-- `enable()` (R136, R146). -/
def State.enableTransport (s : State) : State :=
  match s.cfg.backend with
  | .hardware => s.txrxEnable
  | .mock => s

/-- `disable()` (R137, R146). -/
def State.disableTransport (s : State) : State :=
  match s.cfg.backend with
  | .hardware => s.txrxDisable
  | .mock => s

end Sys2Proof.Machine
end

