-- ==== Sys2Proof/Machine/ConnOps.lean ====
section
/-! DEFINITION. The meanings of the sequencer commands (spec/41_connection_ops.md R101 to R109). A command that needs
no waiting runs to completion in the step that takes it (R117's phases collapsed, decision D22); a SEND whose poll
answers "not ready" is left in flight in phase S_POLL (log entry 5). -/

namespace Sys2Proof.Machine

/-- What BEGIN does, without its response (R102): nothing when initialized, else the bring-up and then the flag. A
divisor too wide for `BRG` is refused before any access (42_backend_primitives.md R138; log entry 17). -/
def beginConnection (s : State) : Host.Outcome State Fault Refusal :=
  if s.initialized then .next s
  else if decide (s.cfg.backend = .hardware) && s.divisorTooWide then .refused .divisorTooWide
  else .next { s.bringUp with initialized := true }

/-- BEGIN (R102). -/
def execBegin (s : State) : Host.Outcome State Fault Refusal :=
  ifAlive s (onNext (beginConnection s) (·.respondSeq rspNone))

/-- The body of AVAILABLE on an initialized connection (R103): one poll, and if it answers ready exactly one byte. -/
def pullByte (s : State) : State :=
  if s.receiverReady then
    { s.receiverPolled.byteReceived with rx := s.rx.push s.cfg.nRx s.receiverPolled.receivedByte }
  else s.receiverPolled

/-- AVAILABLE (R103). -/
def execAvailable (s : State) : Host.Outcome State Fault Refusal :=
  ifAlive s (.next (
    if s.initialized then (pullByte s).respondSeq (rspCount (pullByte s).rx.count)
    else s.respondSeq (rspCount 0)))

/-- The body of SEND on an initialized connection (R104): complete if the byte is accepted, else in flight. -/
def sendOrSpin (b : Byte) (s : State) : State :=
  if s.transmitterReady then (s.sendTurn b).respondSeq (rspBool true)
  else { s.sendTurn b with seq := .sPoll, txByte := b, seqRsp := none }

/-- SEND (R104). -/
def execSend (b : Byte) (s : State) : Host.Outcome State Fault Refusal :=
  ifAlive s (.next (
    if s.initialized then sendOrSpin b s
    else s.respondSeq (rspBool false)))

/-- RECEIVE (R105). -/
def execReceive (s : State) : Host.Outcome State Fault Refusal :=
  ifAlive s (.next (
    if s.initialized then { s with rx := s.rx.drop s.cfg.nRx }.respondSeq (rspByte s.rxHead)
    else s.respondSeq (rspByte Config.rxDefault)))

/-- ISINIT (R106). -/
def execIsinit (s : State) : Host.Outcome State Fault Refusal :=
  ifAlive s (.next (s.respondSeq (rspBool s.initialized)))

/-- ENABLE (R107). -/
def execEnable (s : State) : Host.Outcome State Fault Refusal :=
  ifAlive s (.next (s.enableTransport.respondSeq rspNone))

/-- DISABLE (R108). -/
def execDisable (s : State) : Host.Outcome State Fault Refusal :=
  ifAlive s (.next (s.disableTransport.respondSeq rspNone))

/-- DESTROY (R109). -/
def execDestroy (s : State) : Host.Outcome State Fault Refusal :=
  ifAlive s (.next ({ s.disableTransport with alive := false }.respondSeq rspNone))

end Sys2Proof.Machine
end

