-- ==== Sys2Proof/Machine/FifoOps.lean ====
section
/-! DEFINITION. The meanings of the FIFO commands (spec/40_fifo_ops.md R81 to R85). Each completes in the step that
takes it and none can fail (R80). -/

namespace Sys2Proof.Machine

/-- PUSH (R81). -/
def execPush (item : Nat) (s : State) : Host.Outcome State Fault Refusal :=
  .next ({ s with fifo := s.fifo.push s.cfg.n (itemOperand s.cfg.w item) }.respondFifo rspNone)

/-- POP (R82). -/
def execPop (s : State) : Host.Outcome State Fault Refusal :=
  .next ({ s with fifo := s.fifo.drop s.cfg.n }.respondFifo s.fifoHead)

/-- PEEK (R83). -/
def execPeek (s : State) : Host.Outcome State Fault Refusal :=
  .next (s.respondFifo s.fifoHead)

/-- CLEAR (R84). -/
def execClear (s : State) : Host.Outcome State Fault Refusal :=
  .next ({ s with fifo := s.fifo.cleared }.respondFifo rspNone)

/-- COUNT (R85). -/
def execCount (s : State) : Host.Outcome State Fault Refusal :=
  .next (s.respondFifo (rspCount s.fifo.count))

end Sys2Proof.Machine
end

