-- ==== Sys2Proof/Machine/Dispatch.lean ====
section
/-! DEFINITION. One arm for each command: the meaning it has (spec/40_fifo_ops.md, spec/41_connection_ops.md). -/

namespace Sys2Proof.Machine

-- The FIFO commands first, then the sequencer commands, in the order of spec/opcode_table.json.
def exec (i : Instr) (s : State) : Host.Outcome State Fault Refusal :=
  match i with
  | .push item => Sys2Proof.Machine.execPush item s
  | .pop => Sys2Proof.Machine.execPop s
  | .peek => Sys2Proof.Machine.execPeek s
  | .clear => Sys2Proof.Machine.execClear s
  | .count => Sys2Proof.Machine.execCount s
  | .begin => Sys2Proof.Machine.execBegin s
  | .available => Sys2Proof.Machine.execAvailable s
  | .send byte => Sys2Proof.Machine.execSend byte s
  | .receive => Sys2Proof.Machine.execReceive s
  | .isinit => Sys2Proof.Machine.execIsinit s
  | .enable => Sys2Proof.Machine.execEnable s
  | .disable => Sys2Proof.Machine.execDisable s
  | .destroy => Sys2Proof.Machine.execDestroy s

end Sys2Proof.Machine
end

