-- ==== Sys2Proof/Machine/Construct.lean ====
section
/-! DEFINITION. Reset, which is construction (spec/70_reset_and_hazards.md R190 to R194; spec/41_connection_ops.md
R115). A reset may come at any time, also while a SEND spins; it leaves the peripheral registers alone (R194). -/

namespace Sys2Proof.Machine

/-- FIFO reset (R191); a FIFO with no slot is refused (60_exceptions.md R176). -/
def fifoConstruct (s : State) : Host.Outcome State Fault Refusal :=
  if s.cfg.n = 0 then .refused .badCapacity
  else .next { s with fifo := Fifo.fresh, fifoRsp := none, fifoLog := [] }

/-- The reset values of the sequencer (10_state.md R37, R192). -/
def State.freshConnection (s : State) (baud : Word32) (c : CtrlId) : State :=
  { s with
    initialized := false
    baud := baud
    ctrl := c
    rx := Fifo.fresh
    seq := .idle
    alive := true
    txByte := 0#8
    events := []
    seqRsp := none
    seqLog := []
    hostLog := [] }

/-- Sequencer reset with the straps: CONSTRUCT (R192), with the eager BEGIN inside the step (R193; log entries 15,
16). -/
def construct (straps : Straps) (s : State) : Host.Outcome State Fault Refusal :=
  if straps.baud = 0#32 then .refused .badBaud
  else match ctrlOfCode straps.ctrl with
    | none => .refused .badController
    | some c =>
      if c ∈ s.othersLive then .refused .sharedController
      else if s.cfg.nRx = 0 then .refused .badCapacity
      else if straps.eager then beginConnection (s.freshConnection straps.baud c)
      else .next (s.freshConnection straps.baud c)

end Sys2Proof.Machine
end

