-- ==== Sys2Proof/Machine/Phases.lean ====
section
/-! DEFINITION. The walk of the register `seq` (spec/41_connection_ops.md R117): one peripheral access for each phase,
the response in the phase that returns to IDLE. `step` takes these phases whenever a command is in flight. -/

namespace Sys2Proof.Machine

/-- The end of a command: back to IDLE, the response driven. -/
def State.finish (s : State) (rsp : Nat) : State := { s with seq := .idle }.respondSeq rsp

/-- The next phase after an access. -/
def State.goto (s : State) (p : Phase) : State := { s with seq := p }

/-- Put the byte read in `rx` (phase 13 of R117). -/
def State.stage (s : State) (b : Byte) : State := { s with rx := s.rx.push s.cfg.nRx b }

/-- One phase of the command in flight (R117). In IDLE nothing happens. -/
def phase (s : State) : Host.Outcome State Fault Refusal :=
  match s.seq with
  | .idle => .next s
  | .bRelease => .next (s.pmxRelease.goto .bAssign)
  | .bAssign => .next (s.pmxAssign.goto .bClock)
  | .bClock => .next (s.clkEnable.goto .bDisable)
  | .bDisable => .next (s.txrxDisable.goto .bBaud)
  | .bBaud => if s.divisorTooWide then .refused .divisorTooWide else .next (s.brgWrite.goto .bMode)
  | .bMode => .next (s.modeWrite.goto .bImask)
  | .bImask => .next (s.intMaskAll.goto .bEnable)
  | .bEnable => .next (s.txrxEnable.goto .bDone)
  | .bDone => .next ({ s with initialized := true }.finish rspNone)
  | .sPoll => .next (s.srReadTx.goto (if s.drawnFlag then .sWrite else .sPoll))
  | .sWrite => .next ((s.thrWrite s.txByte).finish (rspBool true))
  | .aPoll =>
    .next (if s.drawnFlag then s.srReadRx.goto .aRead else s.srReadRx.finish (rspCount s.rx.count))
  | .aRead =>
    .next ((s.rhrRead.stage s.env.value).finish (rspCount (s.rx.push s.cfg.nRx s.env.value).count))

/-- The phase in which a command that makes peripheral accesses of its own goes on after IDLE (R117, row 0), for the
refinement of a command's one step by its phases. -/
def firstPhase : Instr → Option Phase
  | .begin => some .bRelease
  | .available => some .aPoll
  | .send _ => some .sPoll
  | .push _ => none
  | .pop => none
  | .peek => none
  | .clear => none
  | .count => none
  | .receive => none
  | .isinit => none
  | .enable => none
  | .disable => none
  | .destroy => none

end Sys2Proof.Machine
end

