-- ==== Sys2Proof/WellFormed.lean ====
section
/-! DEFINITION. What a command and a set of parameters must satisfy (spec/30_encoding.md R61, R62;
spec/00_scope.md R6, R7). -/

namespace Sys2Proof

/-- A command is well formed for a FIFO of item width `w`: the item of PUSH has `w` bits (30_encoding.md R61). SEND's
operand is a byte by its type, and the other commands have no operand. -/
def Instr.wf (w : Nat) : Instr → Bool
  | .push item => decide (item < 2 ^ w)
  | .pop => true
  | .peek => true
  | .clear => true
  | .count => true
  | .begin => true
  | .available => true
  | .send _ => true
  | .receive => true
  | .isinit => true
  | .enable => true
  | .disable => true
  | .destroy => true

/-- The constraints the spec puts on the parameters: `N >= 1`, `N_RX >= 1`, `DEFAULT` has `W` bits, `CLK_CONST` is
positive (00_scope.md R6, R7). -/
def Params.wf (p : Params) : Bool :=
  decide (1 ≤ p.n) && decide (1 ≤ p.nRx) && decide (p.dflt < 2 ^ p.w) && decide (1 ≤ p.clkConst)

end Sys2Proof
end

