-- ==== Sys2Proof/Decode.lean ====
section
/-! DEFINITION. The decoder of the two command ports and the encoder beside it, both from the opcode maps of
spec/30_encoding.md R64 and R65. A word is a number: bit 0 is its least significant bit (R8). -/

namespace Sys2Proof

/-- The `op` field: everything above the `lowWidth` low bits (30_encoding.md R61, R62). -/
def wordOp (lowWidth word : Nat) : Nat := word / 2 ^ lowWidth

/-- The operand field: the `lowWidth` low bits, taken unchanged (30_encoding.md R63). -/
def wordLow (lowWidth word : Nat) : Nat := word % 2 ^ lowWidth

/-- A command without an operand: its low field must be all zero (30_encoding.md R66). -/
def noOperand (op low : Nat) (i : Instr) : Except DecodeError Instr :=
  if low = 0 then .ok i else .error (.operandBits op low)

/-- The F-format decoder for item width `w` (30_encoding.md R61, R64, R66). -/
def decodeFifo (w word : Nat) : Except DecodeError Instr :=
  match wordOp w word with
  | 1 => .ok (.push (wordLow w word))
  | 2 => noOperand 2 (wordLow w word) .pop
  | 3 => noOperand 3 (wordLow w word) .peek
  | 4 => noOperand 4 (wordLow w word) .clear
  | 5 => noOperand 5 (wordLow w word) .count
  | op => .error (.reservedOpcode op)

/-- The S-format decoder (30_encoding.md R62, R65, R66). -/
def decodeSeq (word : Nat) : Except DecodeError Instr :=
  match wordOp 8 word with
  | 1 => noOperand 1 (wordLow 8 word) .begin
  | 2 => noOperand 2 (wordLow 8 word) .available
  | 3 => .ok (.send (BitVec.ofNat 8 (wordLow 8 word)))
  | 4 => noOperand 4 (wordLow 8 word) .receive
  | 5 => noOperand 5 (wordLow 8 word) .isinit
  | 6 => noOperand 6 (wordLow 8 word) .enable
  | 7 => noOperand 7 (wordLow 8 word) .disable
  | 8 => noOperand 8 (wordLow 8 word) .destroy
  | op => .error (.reservedOpcode op)

/-- The decoder of a port, for a bare FIFO of item width `w`: total on every word, rejecting by name. -/
def decode (w : Nat) (p : Port) (word : Nat) : Except DecodeError Instr :=
  match p with
  | .fifo => decodeFifo w word
  | .seq => decodeSeq word

/-- The opcode of a command on its port (30_encoding.md R64, R65). -/
def opcode : Instr → Nat
  | .push _ => 1
  | .pop => 2
  | .peek => 3
  | .clear => 4
  | .count => 5
  | .begin => 1
  | .available => 2
  | .send _ => 3
  | .receive => 4
  | .isinit => 5
  | .enable => 6
  | .disable => 7
  | .destroy => 8

/-- The low field of a command's word: its operand, or zero (30_encoding.md R61, R62). -/
def lowField : Instr → Nat
  | .push item => item
  | .pop => 0
  | .peek => 0
  | .clear => 0
  | .count => 0
  | .begin => 0
  | .available => 0
  | .send byte => byte.toNat
  | .receive => 0
  | .isinit => 0
  | .enable => 0
  | .disable => 0
  | .destroy => 0

/-- The width of a port's low field: `W` bits, or 8 (30_encoding.md R61, R62). -/
def lowWidth (w : Nat) : Port → Nat
  | .fifo => w
  | .seq => 8

/-- The width of a port's words: `3 + W` bits, or 12 (30_encoding.md R60). -/
def portWidth (w : Nat) : Port → Nat
  | .fifo => w + 3
  | .seq => 12

/-- The word of a command, for a bare FIFO of item width `w`: opcode in the high bits, operand in the low bits. -/
def encode (w : Nat) (i : Instr) : Nat :=
  opcode i * 2 ^ lowWidth w i.port + lowField i

/-- Which port a word of the opcode table is meant for. The table gives F-format words 11 bits and S-format words 12,
and the two maps use the same numbers; where the length does not tell (both are 16 bits in whole bytes), the word
goes to the sequencer's port if that port's decoder takes it, else to the FIFO's (DESIGN CHOICE, log entry 4). -/
def portOfTableWord (nbits word : Nat) : Port :=
  if nbits = 11 then .fifo
  else if nbits = 12 then .seq
  else match decodeSeq word with
    | .ok _ => .seq
    | .error _ => .fifo

/-- The instruction the decoder reads from a word of the opcode table, which shows the FIFO with `W = 8`. -/
def decodeTableWord (nbits w : Nat) : Option Instr :=
  match decode 8 (portOfTableWord nbits w) w with
  | .ok i => some i
  | .error _ => none

end Sys2Proof
end

