-- ==== Sys2Proof/Machine/Pseudo.lean ====
section
/-! DEFINITION. The pseudo-instructions, which the host expands into command words (spec/30_encoding.md R70;
spec/41_connection_ops.md R110 to R114; log entry 13). -/

namespace Sys2Proof.Machine

/-- One command word on the sequencer's port. -/
def commandInput (i : Instr) : Input := .seqCmd (encode 8 i)

/-- The SEND commands of a byte sequence, first byte first (20_memory.md R43). -/
def sendInputs (bytes : List Byte) : List Input := bytes.map fun b => commandInput (.send b)

/-- SENDN (R110): uninitialized, no command and the result false; else one SEND for each byte and the result true. -/
def expandSendN (initialized : Bool) (bytes : List Byte) : List Input :=
  if initialized then sendInputs bytes ++ [.hostResult true] else [.hostResult false]

/-- INS of a sequence (R114): SENDN whose result is discarded. -/
def expandInsert (initialized : Bool) (bytes : List Byte) : List Input :=
  if initialized then sendInputs bytes else []

/-- What the host puts on the ports for a pseudo-instruction. A text with no zero byte is refused (R111). -/
def expand (initialized : Bool) : Pseudo → Except Refusal (List Input)
  | .sendn bytes => .ok (expandSendN initialized bytes)
  | .sendz bytes =>
    match beforeZero bytes with
    | none => .error .noTerminator
    | some text => .ok (expandSendN initialized text)
  | .putc b => .ok [commandInput (.send b)]
  | .getc => .ok [commandInput .receive]
  | .ins b => .ok [commandInput (.send b)]
  | .insBytes bytes => .ok (expandInsert initialized bytes)
  | .insText bytes =>
    match beforeZero bytes with
    | none => .error .noTerminator
    | some text => .ok (expandInsert initialized text)
  | .ext => .ok [commandInput .receive]

/-- The step in which the host replaces a pseudo-instruction by its commands; the blocks do nothing. On a destroyed
connection it is refused like every command (R109). -/
def runPseudo (p : Pseudo) (s : State) : Host.Outcome State Fault Refusal :=
  ifAlive s (match expand s.initialized p with
    | .error r => .refused r
    | .ok commands => .next (s.pending (commands ++ s.inputs)))

/-- The host notes the result of a SENDN or SENDZ (R110). -/
def noteResult (success : Bool) (s : State) : Host.Outcome State Fault Refusal :=
  .next { s with hostLog := s.hostLog ++ [success] }

end Sys2Proof.Machine
end

