-- ==== Sys2Proof/Machine/Fetch.lean ====
section
/-! DEFINITION. What one step has to do, from what the host puts on the ports (spec/30_encoding.md R60, R66;
spec/60_exceptions.md R168). There is no program counter and no fetch from memory: "every command word comes from the
host port at the step that executes it" (spec/20_memory.md R52; log entries 2, 3). -/

namespace Sys2Proof.Machine

/-- Take a word from a port: decode it first (60_exceptions.md R168), refuse a reserved one (30_encoding.md R66). -/
def takeWord (p : Port) (word : Nat) (s : State) : Action :=
  match decode s.cfg.w p word with
  | .error _ => .done (.refused .reservedEncoding)
  | .ok i => .take i s

/-- Inputs that need `cmd_ready = 1` on the sequencer's port: its command words, and what its host does before or after
them. The others need no readiness: an idle cycle, the FIFO's own port, and `rst` (30_encoding.md R60, R74). -/
def Input.waits : Input → Bool
  | .idle => false
  | .fifoCmd _ => false
  | .seqCmd _ => true
  | .fifoReset => false
  | .seqReset _ => false
  | .pseudo _ => true
  | .hostResult _ => true

/-- The inputs held in front of the port while a command is in flight (`cmd_ready = 0`, 30_encoding.md R60). -/
def State.held (s : State) : List Input :=
  if s.cmdReady then [] else s.inputs.takeWhile Input.waits

/-- The inputs from the first one on that this step can take: what is held does not stop the other port, the time that
passes, or a reset, which "may be applied at any time, including during a SEND that is spinning"
(70_reset_and_hazards.md R190; log entry 2). -/
def State.due (s : State) : List Input :=
  if s.cmdReady then s.inputs else s.inputs.dropWhile Input.waits

/-- What the step does with the first input it can take, on the state `s` with both ports quiet; `held` and `rest` are
the inputs before and after it. A reset of the sequencer withdraws what its host holds in front of the port: a reset
step takes no command (R190; log entry 2). -/
def onInput (x : Input) (held rest : List Input) (s : State) : Action :=
  match x with
  | .idle => .done (phase (s.pending (held ++ rest)))
  | .fifoCmd word => takeWord .fifo word (s.pending (held ++ rest))
  | .seqCmd word => takeWord .seq word (s.pending (held ++ rest))
  | .fifoReset => .done (fifoConstruct (s.pending (held ++ rest)))
  | .seqReset straps => .done (construct straps (s.pending rest))
  | .pseudo p => .done (runPseudo p (s.pending (held ++ rest)))
  | .hostResult r => .done (noteResult r (s.pending (held ++ rest)))

/-- What one step has to do. With nothing it can take, `cmd_valid = 0` or `cmd_ready = 0` on the ports, and only a
command in flight goes on, by its next phase (30_encoding.md R60; 41_connection_ops.md R117). -/
def nextAction (s : State) : Action :=
  match s.due with
  | [] => .done (phase s.quiet)
  | x :: rest => onInput x s.held rest s.quiet

/-- Present a word on a port, before everything else the host has pending. -/
def State.present (s : State) (p : Port) (word : Nat) : State :=
  match p with
  | .fifo => s.pending (.fifoCmd word :: s.inputs)
  | .seq => { s with seq := .idle }.pending (.seqCmd word :: s.inputs)

end Sys2Proof.Machine
end

