-- ==== Sys2Proof/Machine/Step.lean ====
section
/-! DEFINITION. One step of the machine (spec/00_scope.md R9, spec/30_encoding.md R60), and the placing of a word
where the next step takes it. -/

namespace Sys2Proof.Machine

/-- One step: what the ports and the command in flight decide, or the command just taken. -/
def step (s : State) : Host.Outcome State Fault Refusal :=
  match nextAction s with
  | .done o => o
  | .take i t => exec i t

/-- The state with a word of the opcode table presented on the port it is meant for, so that the next step takes it
(log entries 3, 4). On the sequencer's port that takes an idle sequencer. -/
def State.withFetchWord (s : State) (nbits w : Nat) : State := s.present (portOfTableWord nbits w) w

end Sys2Proof.Machine
end

