-- ==== Sys2Proof/Safety.lean ====
section
/-! DEFINITION. What holds of every state a run reaches, and the words in which statements speak of runs, frames and
the event history (spec/10_state.md R14 to R16, R18, R34, R35, R41; spec/20_memory.md R55;
spec/42_backend_primitives.md R134, R135, R148). -/

namespace Sys2Proof.Machine

/-- The buffered items, oldest first (10_state.md R15): what slot `(rd + k) mod N` reads as, for `k` below `count`. -/
def Fifo.items {α : Type} (n : Nat) (free : Nat → α) (f : Fifo α) : List α :=
  (List.range f.count).map fun k => f.slotRead free ((f.rd + k) % n)

/-- The invariant of a FIFO of capacity `n` whose items satisfy `fits` (10_state.md R12 to R15, 20_memory.md R41). -/
structure FifoInv {α : Type} (n : Nat) (fits : α → Prop) (f : Fifo α) : Prop where
  /-- The slot list is in its canonical form. -/
  wf : f.wf = true
  /-- Only the slots below the capacity are ever stored into, and with items of the right width. -/
  slots : ∀ i v, f.stored i = some v → i < n ∧ fits v
  rd : f.rd < n
  wr : f.wr < n
  count : f.count ≤ n
  /-- "at every step boundary `wr = (rd + count) mod N`" (R15). -/
  link : f.wr = (f.rd + f.count) % n
  /-- A buffered slot has been stored into, so that no rule reads a slot without a value (20_memory.md R41). -/
  window : ∀ k, k < f.count → (f.stored ((f.rd + k) % n)).isSome = true

/-- The successful poll that must stand right before an access: `TXRDY` read as 1 before a `THR` write
(10_state.md R34), `RXRDY` read as 1 before an `RHR` read (R35); nothing for the other accesses. -/
def pollBefore (e : Event) : Option Event :=
  match e.dir, e.value with
  | .write, .txchr _ => some { dir := .read, c := e.c, reg := .sr, value := .txrdy true }
  | .read, .rxchr _ => some { dir := .read, c := e.c, reg := .sr, value := .rxrdy true }
  | _, _ => none

/-- Every access of a history that needs a successful poll has it right before it. -/
def Polled (h : List Event) : Prop :=
  ∀ pre e post p, h = pre ++ e :: post → pollBefore e = some p → pre.getLast? = some p

/-- Commands that the phases 1 to 9 belong to: a bring-up in progress. -/
def Phase.bringingUp : Phase → Bool
  | .idle => false
  | .bRelease => true
  | .bAssign => true
  | .bClock => true
  | .bDisable => true
  | .bBaud => true
  | .bMode => true
  | .bImask => true
  | .bEnable => true
  | .bDone => true
  | .sPoll => false
  | .sWrite => false
  | .aPoll => false
  | .aRead => false

/-- The event a phase needs to have just happened: the poll that let the command go on (41_connection_ops.md R117). -/
def Phase.after (c : CtrlId) : Phase → Option Event
  | .sWrite => some { dir := .read, c := c, reg := .sr, value := .txrdy true }
  | .aRead => some { dir := .read, c := c, reg := .sr, value := .rxrdy true }
  | .idle => none
  | .bRelease => none
  | .bAssign => none
  | .bClock => none
  | .bDisable => none
  | .bBaud => none
  | .bMode => none
  | .bImask => none
  | .bEnable => none
  | .bDone => none
  | .sPoll => none
  | .aPoll => none

/-- The invariant of the machine. -/
structure Inv (s : State) : Prop where
  cfg : s.cfg.wf = true
  fifo : FifoInv s.cfg.n (fun v => v < 2 ^ s.cfg.w) s.fifo
  rx : FifoInv s.cfg.nRx (fun _ => True) s.rx
  /-- `baud` is positive (10_state.md R19, 70_reset_and_hazards.md R192). -/
  baud : s.baud ≠ 0#32
  /-- No other live connection has this one's identity (60_exceptions.md R173). -/
  unshared : s.alive = true → s.ctrl ∉ s.othersLive
  /-- "nothing can push while `initialized = 0`" (41_connection_ops.md R102). -/
  empty : s.initialized = false → s.rx.count = 0
  /-- A command in flight belongs to a live hardware connection; a bring-up to one not yet initialized. -/
  flight : s.seq ≠ .idle →
    s.alive = true ∧ s.cfg.backend = .hardware ∧ s.initialized = !s.seq.bringingUp
  /-- A phase that comes after a successful poll comes right after it. -/
  after : ∀ e, s.seq.after s.ctrl = some e → s.events.getLast? = some e
  /-- The mock backend makes no access (20_memory.md R55). -/
  mock : s.cfg.backend = .mock → s.events = []
  polled : Polled s.events
  /-- Every access is the connection's own identity's (10_state.md R20). -/
  own : ∀ e, e ∈ s.events → e.c = s.ctrl
  /-- Every response fits its port (30_encoding.md R67). -/
  fifoFits : ∀ v, v ∈ s.fifoLog → v < 2 ^ fifoRspWidth s.cfg
  seqFits : ∀ v, v ∈ s.seqLog → v < 2 ^ seqRspWidth s.cfg

/-- The F-format words without a meaning (30_encoding.md R64, R66), for item width `w`. -/
def ReservedFifoWord (w word : Nat) : Prop :=
  word / 2 ^ w = 0 ∨ 6 ≤ word / 2 ^ w ∨ (word / 2 ^ w ≠ 1 ∧ word % 2 ^ w ≠ 0)

/-- The S-format words without a meaning (30_encoding.md R65, R66). -/
def ReservedSeqWord (word : Nat) : Prop :=
  word / 256 = 0 ∨ 9 ≤ word / 256 ∨ (word / 256 ≠ 3 ∧ word % 256 ≠ 0)

/-- Two states that differ at most in the FIFO block and its response port. -/
def SameButFifo (s t : State) : Prop :=
  t = { s with fifo := t.fifo, fifoRsp := t.fifoRsp, fifoLog := t.fifoLog }

/-- Two states that differ at most in the receive FIFO, the event history, the draws and the sequencer's response
port. -/
def SameButRx (s t : State) : Prop :=
  t = { s with rx := t.rx, events := t.events, env := t.env, seqRsp := t.seqRsp, seqLog := t.seqLog }

/-- The step of `s` takes the input `x`: it is the first due (30_encoding.md R60). -/
def Takes (s : State) (x : Input) : Prop := ∃ rest, s.due = x :: rest

/-- The step of `s` is a reset of the sequencer. -/
def ResetNext (s : State) : Prop := ∃ straps, Takes s (.seqReset straps)

/-- The step of `s` makes a phase of the command in flight: nothing is due, or an idle cycle. -/
def MakesPhase (s : State) : Prop := s.due = [] ∨ Takes s .idle

/-- The straps of a construction that is not refused for its straps, its identity or its capacity: identity `c`
(70_reset_and_hazards.md R192, 60_exceptions.md R176). -/
def GoodStraps (s : State) (straps : Straps) (c : CtrlId) : Prop :=
  straps.baud ≠ 0#32 ∧ straps.ctrl = ctrlCode c ∧ c ∉ s.othersLive ∧ s.cfg.nRx ≠ 0

/-- The environment after `n` draws. -/
def Env.afterDraws : Nat → Env → Env
  | 0, e => e
  | n + 1, e => Env.afterDraws n e.next

/-- Every flag drawn from now on is 0 (60_exceptions.md R164). -/
def Env.NeverReady (e : Env) : Prop := ∀ n, (e.afterDraws n).value.getLsbD 0 = false

/-- Run a list of commands one after the other, without the ports. -/
def execAll : List Instr → State → Host.Outcome State Fault Refusal
  | [], s => .next s
  | i :: rest, s =>
    match exec i s with
    | .next t => execAll rest t
    | .fault r => .fault r
    | .refused r => .refused r

/-- A hardware connection `h` and a mock connection `m` that a host cannot tell apart (42_backend_primitives.md R148):
equal in everything but the backend, the event history, the peripheral registers, the draws and the operand latch. -/
def Twins (h m : State) : Prop :=
  m.cfg.backend = .mock ∧
    h = { m with
      cfg := { m.cfg with backend := .hardware }
      events := h.events
      periph := h.periph
      env := h.env
      txByte := h.txByte }

/-- The draws a command meets are those the mock stands for: every flag 1, every byte the sentinel (R148). -/
def DrawsLikeMock (e : Env) : Instr → Prop
  | .available => e.value.getLsbD 0 = true ∧ e.next.value = Config.mockSentinel
  | .send _ => e.value.getLsbD 0 = true
  | .push _ => True
  | .pop => True
  | .peek => True
  | .clear => True
  | .count => True
  | .begin => True
  | .receive => True
  | .isinit => True
  | .enable => True
  | .disable => True
  | .destroy => True

end Sys2Proof.Machine
end

