-- ==== Sys2Proof/Certificates/Slice0/Obligations.lean ====
section
/-! DEFINITION. The statements for the provers. Each docstring names the rule of spec/ it formalises. -/

open Sys2Proof Sys2Proof.Machine

/-! ### Encodings -/

/-- 30_encoding.md R63 to R65: decoding the encoding of a well-formed command gives the command, for every item width.
(In whole or part the spec's own: decisions D3, D12.) -/
def Obligations.DecodeOfEncodeIsTheInstruction : Prop :=
  ∀ (w : Nat) (i : Instr), i.wf w = true → decode w i.port (encode w i) = .ok i

/-- 92_eei_decisions.md D10, "a canonical encoding makes decode injective": a word that decodes is the encoding of
what it decodes to, on that command's own port, and has the port's width (30_encoding.md R60, R66). (In whole or part
the spec's own: decision D10.) -/
def Obligations.AcceptedWordIsTheEncoding : Prop :=
  ∀ (w : Nat) (p : Port) (word : Nat) (i : Instr), decode w p word = .ok i →
    i.port = p ∧ i.wf w = true ∧ encode w i = word ∧ word < 2 ^ portWidth w p

/-- 30_encoding.md R66: the reserved words are exactly those the rule lists, the decoder accepts none of them and all
the others, and the machine refuses a reserved word it takes. (In whole or part the spec's own: decision D10.) -/
def Obligations.ReservedWordsAreRefused : Prop :=
  (∀ w word : Nat, ReservedFifoWord w word ↔ ∀ i, decode w .fifo word ≠ .ok i) ∧
  (∀ w word : Nat, ReservedSeqWord word ↔ ∀ i, decode w .seq word ≠ .ok i) ∧
  (∀ (s : State) (word : Nat) (rest : List Input), s.inputs = .fifoCmd word :: rest →
    ReservedFifoWord s.cfg.w word → step s = .refused .reservedEncoding) ∧
  (∀ (s : State) (word : Nat) (rest : List Input), s.inputs = .seqCmd word :: rest → s.seq = .idle →
    ReservedSeqWord word → step s = .refused .reservedEncoding)

/-- 95_test_vectors.md F11 and S14: words written out from the encoding tables decode to the commands they stand for.
(In whole or part the spec's own: decisions D3, D12.) -/
def Obligations.TableWordsDecode : Prop :=
  decode 8 .fifo 0x1A5 = .ok (.push 0xA5) ∧ decode 8 .fifo 0x200 = .ok .pop ∧
  decode 8 .fifo 0x300 = .ok .peek ∧ decode 8 .fifo 0x400 = .ok .clear ∧ decode 8 .fifo 0x500 = .ok .count ∧
  decode 8 .seq 0x100 = .ok .begin ∧ decode 8 .seq 0x200 = .ok .available ∧
  decode 8 .seq 0x341 = .ok (.send 0x41#8) ∧ decode 8 .seq 0x400 = .ok .receive ∧
  decode 8 .seq 0x500 = .ok .isinit ∧ decode 8 .seq 0x600 = .ok .enable ∧
  decode 8 .seq 0x700 = .ok .disable ∧ decode 8 .seq 0x800 = .ok .destroy

/-- 30_encoding.md R71, R72; 41_connection_ops.md R117: the codes of the small fields, as the tables number them; no
other code names an identity, and no code names two things. (In whole or part the spec's own: decisions D13, D15,
D22.) -/
def Obligations.FieldCodesAreThoseOfTheTables : Prop :=
  ([CtrlId.first, .second, .third].map ctrlCode = [0, 1, 2] ∧
    (∀ c, ctrlOfCode (ctrlCode c) = some c) ∧ (∀ k, ctrlOfCode k = none ↔ k = 3#2)) ∧
  ([PReg.pmxOwn, .pmxFn, .clkEn, .cr, .brg, .mr, .imr, .sr, .thr, .rhr].map regCode =
      [0, 1, 2, 3, 4, 5, 6, 7, 8, 9] ∧
    (∀ r r', regCode r = regCode r' → r = r') ∧ [Dir.read, .write].map dirCode = [0, 1]) ∧
  ([Phase.idle, .bRelease, .bAssign, .bClock, .bDisable, .bBaud, .bMode, .bImask, .bEnable, .bDone, .sPoll, .sWrite,
      .aPoll, .aRead].map phaseCode = [0, 1, 2, 3, 4, 5, 6, 7, 8, 9, 10, 11, 12, 13] ∧
    (∀ p p', phaseCode p = phaseCode p' → p = p'))

/-- 00_scope.md R6: `CW` is the least `k` with `2^k > N` and `IW` the least `k >= 1` with `2^k >= N`. (In whole or
part the spec's own: decision D8.) -/
def Obligations.RegisterWidthsAreLeast : Prop :=
  (∀ n, n < 2 ^ countWidth n ∧ ∀ k, n < 2 ^ k → countWidth n ≤ k) ∧
  (∀ n, 1 ≤ indexWidth n ∧ n ≤ 2 ^ indexWidth n ∧ ∀ k, 1 ≤ k → n ≤ 2 ^ k → indexWidth n ≤ k)

/-! ### Steps and ports -/

/-- 30_encoding.md R60, 60_exceptions.md R168: a word on the FIFO's port that decodes to a command is run by `exec`, in
the step that takes it, with both response ports quiet at its start. (In whole or part the spec's own: decision D1. That
this holds whatever the sequencer is doing, a command in flight making no phase in this step, is the model's choice, log
entry 2: R60 and R74 give no common order of the two ports.) -/
def Obligations.StepRunsTheFifoCommand : Prop :=
  ∀ (s : State) (word : Nat) (rest : List Input) (i : Instr), s.inputs = .fifoCmd word :: rest →
    decode s.cfg.w .fifo word = .ok i →
    step s = exec i { s with inputs := rest, fifoRsp := none, seqRsp := none }

/-- 30_encoding.md R60, 60_exceptions.md R168: the same on the sequencer's port, when no command is in flight. (In
whole or part the spec's own: decision D1.) -/
def Obligations.StepRunsTheSequencerCommand : Prop :=
  ∀ (s : State) (word : Nat) (rest : List Input) (i : Instr), s.inputs = .seqCmd word :: rest →
    s.seq = .idle → decode s.cfg.w .seq word = .ok i →
    step s = exec i { s with inputs := rest, fifoRsp := none, seqRsp := none }

/-- 30_encoding.md R60: with no command presented and none in flight nothing changes; the response ports are not valid
(R67). (In whole or part the spec's own: decision D1.) -/
def Obligations.IdleStepChangesNothing : Prop :=
  ∀ s : State, s.seq = .idle →
    (s.inputs = [] → step s = .next { s with fifoRsp := none, seqRsp := none }) ∧
    (∀ rest, s.inputs = .idle :: rest →
      step s = .next { s with inputs := rest, fifoRsp := none, seqRsp := none })

/-- 30_encoding.md R60 (`cmd_ready = 0`), 20_memory.md R46, 41_connection_ops.md R117: while a command is in flight the
words on the sequencer's port, and the pseudo-instructions and result marks its host has pending, are not taken: the
command makes its next phase and they stay presented. (In whole or part the spec's own: decisions D1, D22. That a step
is one phase and that the host's actions stand in one list is the model's choice, log entries 5 and 2.) -/
def Obligations.CommandInFlightHoldsThePort : Prop :=
  ∀ s t : State, s.seq ≠ .idle → (∀ x ∈ s.inputs, x.waits = true) →
    (step s = phase { s with fifoRsp := none, seqRsp := none }) ∧
    (step s = .next t → t.inputs = s.inputs ∧ t.alive = s.alive ∧ t.ctrl = s.ctrl ∧ t.fifo = s.fifo)

/-- 60_exceptions.md R176, R160: what a step is refused for, each refusal exactly for these inputs, and nothing else: no
step faults, and none is refused as not modelled. (In whole or part the spec's own: decisions D7, D10, D13, D17, D24,
D33, D34. Which of two refusals a step answers where more than one reason holds, and in which step a divisor too wide
is refused, is the model's choice, log entries 13, 15, 16 and 17.) -/
def Obligations.StepRefusesExactlyTheseInputs : Prop :=
  ∀ s : State,
    (∀ r : Fault, step s ≠ .fault r) ∧ (∀ m, step s ≠ .refused (.notModelled m)) ∧
    (step s = .refused .reservedEncoding ↔
      (∃ word, Takes s (.fifoCmd word) ∧ ReservedFifoWord s.cfg.w word) ∨
        ∃ word, Takes s (.seqCmd word) ∧ ReservedSeqWord word) ∧
    (step s = .refused .notAlive ↔ s.alive = false ∧
      ((∃ word, Takes s (.seqCmd word) ∧ ¬ ReservedSeqWord word) ∨ ∃ p, Takes s (.pseudo p))) ∧
    (step s = .refused .badBaud ↔ ∃ straps, Takes s (.seqReset straps) ∧ straps.baud = 0#32) ∧
    (step s = .refused .badController ↔
      ∃ straps, Takes s (.seqReset straps) ∧ straps.baud ≠ 0#32 ∧ straps.ctrl = 3#2) ∧
    (step s = .refused .sharedController ↔
      ∃ straps c, Takes s (.seqReset straps) ∧ straps.baud ≠ 0#32 ∧ straps.ctrl = ctrlCode c ∧ c ∈ s.othersLive) ∧
    (step s = .refused .badCapacity ↔ (Takes s .fifoReset ∧ s.cfg.n = 0) ∨
      ∃ straps c, Takes s (.seqReset straps) ∧ straps.baud ≠ 0#32 ∧ straps.ctrl = ctrlCode c ∧
        c ∉ s.othersLive ∧ s.cfg.nRx = 0) ∧
    (step s = .refused .noTerminator ↔ s.alive = true ∧
      ∃ bytes, (Takes s (.pseudo (.sendz bytes)) ∨ Takes s (.pseudo (.insText bytes))) ∧ ∀ b ∈ bytes, b ≠ 0#8) ∧
    (step s = .refused .divisorTooWide ↔
      (Takes s (.seqCmd 0x100) ∧ s.alive = true ∧ s.initialized = false ∧ s.cfg.backend = .hardware ∧
        2 ^ s.cfg.brgW ≤ s.cfg.clkConst / s.baud.toNat) ∨
      (∃ straps c, Takes s (.seqReset straps) ∧ GoodStraps s straps c ∧ straps.eager = true ∧
        s.cfg.backend = .hardware ∧ 2 ^ s.cfg.brgW ≤ s.cfg.clkConst / straps.baud.toNat) ∨
      (MakesPhase s ∧ s.seq = .bBaud ∧ 2 ^ s.cfg.brgW ≤ s.cfg.clkConst / s.baud.toNat))

/-! ### The FIFO block -/

/-- 40_fifo_ops.md R81: PUSH, its encoding and both cases, with its frame: slot `wr` and no other, `wr`, `count`, the
response. -/
def Obligations.PushFollowsItsRule : Prop :=
  ∀ (s : State) (item : Nat),
    (item < 2 ^ s.cfg.w → decode s.cfg.w .fifo (2 ^ s.cfg.w + item) = .ok (.push item)) ∧
    (s.fifo.count = s.cfg.n →
      exec (.push item) s = .next { s with fifoRsp := some 0, fifoLog := s.fifoLog ++ [0] }) ∧
    (item < 2 ^ s.cfg.w → s.fifo.count ≠ s.cfg.n → ∃ t, exec (.push item) s = .next t ∧
      t.fifo.stored s.fifo.wr = some item ∧
      (∀ j, j ≠ s.fifo.wr → t.fifo.stored j = s.fifo.stored j) ∧
      t.fifo.wr = (s.fifo.wr + 1) % s.cfg.n ∧ t.fifo.rd = s.fifo.rd ∧ t.fifo.count = s.fifo.count + 1 ∧
      t.fifoRsp = some 0 ∧ t.fifoLog = s.fifoLog ++ [0] ∧ SameButFifo s t)

/-- 40_fifo_ops.md R82: POP, its encoding and both cases, with its frame: no slot changes. -/
def Obligations.PopFollowsItsRule : Prop :=
  ∀ s : State,
    decode s.cfg.w .fifo (2 * 2 ^ s.cfg.w) = .ok .pop ∧
    (s.fifo.count = 0 →
      exec .pop s = .next { s with fifoRsp := some s.cfg.dflt, fifoLog := s.fifoLog ++ [s.cfg.dflt] }) ∧
    (∀ v, s.fifo.count ≠ 0 → s.fifo.slotRead (freeItem s.cfg.w) s.fifo.rd = v →
      exec .pop s = .next { s with
        fifo := { s.fifo with rd := (s.fifo.rd + 1) % s.cfg.n, count := s.fifo.count - 1 }
        fifoRsp := some v
        fifoLog := s.fifoLog ++ [v] })

/-- 40_fifo_ops.md R83: PEEK answers as POP does and changes no state. -/
def Obligations.PeekFollowsItsRule : Prop :=
  ∀ s : State,
    decode s.cfg.w .fifo (3 * 2 ^ s.cfg.w) = .ok .peek ∧
    (s.fifo.count = 0 →
      exec .peek s = .next { s with fifoRsp := some s.cfg.dflt, fifoLog := s.fifoLog ++ [s.cfg.dflt] }) ∧
    (∀ v, s.fifo.count ≠ 0 → s.fifo.slotRead (freeItem s.cfg.w) s.fifo.rd = v →
      exec .peek s = .next { s with fifoRsp := some v, fifoLog := s.fifoLog ++ [v] })

/-- 40_fifo_ops.md R84: CLEAR empties the FIFO, aligns `rd` to `wr`, writes no slot. -/
def Obligations.ClearFollowsItsRule : Prop :=
  ∀ s : State, decode s.cfg.w .fifo (4 * 2 ^ s.cfg.w) = .ok .clear ∧ exec .clear s = .next { s with
    fifo := { s.fifo with count := 0, rd := s.fifo.wr }
    fifoRsp := some 0
    fifoLog := s.fifoLog ++ [0] }

/-- 40_fifo_ops.md R85: COUNT answers `count` and changes no state; under the FIFO's invariant the answer is at most
`N`. -/
def Obligations.CountFollowsItsRule : Prop :=
  ∀ s : State,
    decode s.cfg.w .fifo (5 * 2 ^ s.cfg.w) = .ok .count ∧
    exec .count s = .next { s with
      fifoRsp := some s.fifo.count
      fifoLog := s.fifoLog ++ [s.fifo.count] } ∧
    (∀ t v, FifoInv s.cfg.n (fun u => u < 2 ^ s.cfg.w) s.fifo → exec .count s = .next t → t.fifoRsp = some v →
      v ≤ s.cfg.n)

/-- 10_state.md R16: the outputs `empty` and `full` say what `count` says, whatever `rd` and `wr` are. (In whole or
part the spec's own: decision D11.) -/
def Obligations.CountAloneDecidesEmptyAndFull : Prop :=
  ∀ (f : Fifo Nat) (n rd wr : Nat), ((f.empty = true ↔ f.count = 0) ∧ (f.full n = true ↔ f.count = n)) ∧
    ({ f with rd := rd, wr := wr }.empty = f.empty ∧ { f with rd := rd, wr := wr }.full n = f.full n)

/-- 40_fifo_ops.md R86: seen as the list of its buffered items, oldest first, the FIFO is a bounded queue that drops
the newest, and stays one. (In whole or part the spec's own: derivation R86. That a PUSH of a number with more than `W`
bits, which no word encodes, appends its `W` low bits is the model's choice, log entry 22.) -/
def Obligations.FifoIsABoundedQueue : Prop :=
  ∀ (s : State) (l : List Nat), FifoInv s.cfg.n (fun v => v < 2 ^ s.cfg.w) s.fifo →
    s.fifo.items s.cfg.n (freeItem s.cfg.w) = l →
    (∀ item, ∃ t, exec (.push item) s = .next t ∧ FifoInv s.cfg.n (fun v => v < 2 ^ s.cfg.w) t.fifo ∧
      t.fifo.items s.cfg.n (freeItem s.cfg.w) =
        if l.length < s.cfg.n then l ++ [item % 2 ^ s.cfg.w] else l) ∧
    (∃ t, exec .pop s = .next t ∧ FifoInv s.cfg.n (fun v => v < 2 ^ s.cfg.w) t.fifo ∧
      t.fifo.items s.cfg.n (freeItem s.cfg.w) = l.tail ∧ t.fifoRsp = some (l.headD s.cfg.dflt)) ∧
    (∃ t, exec .peek s = .next t ∧ FifoInv s.cfg.n (fun v => v < 2 ^ s.cfg.w) t.fifo ∧
      t.fifo.items s.cfg.n (freeItem s.cfg.w) = l ∧ t.fifoRsp = some (l.headD s.cfg.dflt)) ∧
    (∃ t, exec .clear s = .next t ∧ FifoInv s.cfg.n (fun v => v < 2 ^ s.cfg.w) t.fifo ∧
      t.fifo.items s.cfg.n (freeItem s.cfg.w) = []) ∧
    (∃ t, exec .count s = .next t ∧ FifoInv s.cfg.n (fun v => v < 2 ^ s.cfg.w) t.fifo ∧
      t.fifo.items s.cfg.n (freeItem s.cfg.w) = l ∧ t.fifoRsp = some l.length)

/-- 40_fifo_ops.md R87: "After `k` pushes and no pop from reset, `count = min(k, N)` and the buffered items are the
first `min(k, N)` pushed". (In whole or part the spec's own: derivation R87.) -/
def Obligations.PushesSaturateAtCapacity : Prop :=
  ∀ (s : State) (items : List Nat), s.fifo = Fifo.fresh → 1 ≤ s.cfg.n → (∀ v ∈ items, v < 2 ^ s.cfg.w) →
    ∃ t, execAll (items.map Instr.push) s = .next t ∧ t.fifo.count = min items.length s.cfg.n ∧
      t.fifo.items s.cfg.n (freeItem s.cfg.w) = items.take s.cfg.n

/-- 40_fifo_ops.md R80, 10_state.md R10: every FIFO command completes, and touches nothing but the FIFO block. -/
def Obligations.FifoCommandsAlwaysComplete : Prop :=
  ∀ (i : Instr) (s : State), i.port = .fifo → ∃ t, exec i s = .next t ∧ SameButFifo s t

/-- 70_reset_and_hazards.md R191: the FIFO's reset; with no slot it is refused. (In whole or part the spec's own:
decisions D5, D7. That the step makes no phase of a sequencer command in flight is the model's choice, log entry 2, and
so is that the list of responses is emptied, log entry 14.) -/
def Obligations.FifoResetFollowsItsRule : Prop :=
  ∀ (s : State) (rest : List Input), s.inputs = .fifoReset :: rest →
    (s.cfg.n = 0 → step s = .refused .badCapacity) ∧
    (s.cfg.n ≠ 0 → ∃ t, step s = .next t ∧ t.fifo.count = 0 ∧ t.fifo.rd = 0 ∧ t.fifo.wr = 0 ∧
      (∀ j, t.fifo.stored j = none) ∧ t.fifoRsp = none ∧ t.fifoLog = [] ∧
      SameButFifo { s with inputs := rest, seqRsp := none } t)

/-! ### BEGIN and the bring-up -/

/-- 41_connection_ops.md R102, 42_backend_primitives.md R131: BEGIN on an uninitialized hardware connection makes
exactly the eight accesses in order, then sets the flag; the registers hold what was written, `THR` is untouched. (In
whole or part the spec's own: decisions D18, D21, D30, D31.) -/
def Obligations.BeginOnHardwareRunsTheBringUp : Prop :=
  ∀ s : State, s.alive = true → s.initialized = false → s.cfg.backend = .hardware →
    s.cfg.clkConst / s.baud.toNat < 2 ^ s.cfg.brgW →
    exec .begin s = .next { s with
      initialized := true
      seqRsp := some 0
      seqLog := s.seqLog ++ [0]
      events := s.events ++
        [ ⟨.write, s.ctrl, .pmxOwn, .owner ⟨⟨s.ctrl, .rx⟩, ⟨s.ctrl, .tx⟩⟩ .peripheral⟩,
          ⟨.write, s.ctrl, .pmxFn, .function ⟨⟨s.ctrl, .rx⟩, ⟨s.ctrl, .tx⟩⟩
            (if s.ctrl = s.cfg.altCtrl then .alt else .main)⟩,
          ⟨.write, s.ctrl, .clkEn, .clock true⟩,
          ⟨.write, s.ctrl, .cr, .enables false false⟩,
          ⟨.write, s.ctrl, .brg, .divisor (s.cfg.clkConst / s.baud.toNat)⟩,
          ⟨.write, s.ctrl, .mr, .frame ⟨8, .none, .normal, .plainDefault⟩⟩,
          ⟨.write, s.ctrl, .imr, .intMask true⟩,
          ⟨.write, s.ctrl, .cr, .enables true true⟩ ]
      periph := s.periph.set s.ctrl
        { pmxOwnRx := .peripheral
          pmxOwnTx := .peripheral
          pmxFnRx := if s.ctrl = s.cfg.altCtrl then .alt else .main
          pmxFnTx := if s.ctrl = s.cfg.altCtrl then .alt else .main
          clkEn := true
          txen := true
          rxen := true
          brg := s.cfg.clkConst / s.baud.toNat
          mr := ⟨8, .none, .normal, .plainDefault⟩
          imrAllMasked := true
          thr := (s.periph.get s.ctrl).thr } }

/-- 41_connection_ops.md R102, 42_backend_primitives.md R141: BEGIN while initialized does no work; BEGIN on the mock
sets the flag and makes no access. -/
def Obligations.BeginWithoutAccess : Prop :=
  ∀ s : State, s.alive = true →
    (s.initialized = true → exec .begin s = .next { s with seqRsp := some 0, seqLog := s.seqLog ++ [0] }) ∧
    (s.initialized = false → s.cfg.backend = .mock →
      exec .begin s = .next { s with initialized := true, seqRsp := some 0, seqLog := s.seqLog ++ [0] })

/-- 42_backend_primitives.md R138 (c), 60_exceptions.md R176: a divisor too wide for `BRG` is refused. (In whole or
part the spec's own: decision D17.) -/
def Obligations.WideDivisorIsRefused : Prop :=
  ∀ s : State, s.alive = true → s.initialized = false → s.cfg.backend = .hardware →
    2 ^ s.cfg.brgW ≤ s.cfg.clkConst / s.baud.toNat → exec .begin s = .refused .divisorTooWide

/-- 42_backend_primitives.md R138: `DIV * baud <= CLK_CONST < (DIV + 1) * baud` for the divisor a bring-up writes, and
`DIV = 0` when the baud rate exceeds the constant. -/
def Obligations.DivisorIsTheRoundedDownQuotient : Prop :=
  ∀ s : State, s.baud ≠ 0#32 →
    s.divisor * s.baud.toNat ≤ s.cfg.clkConst ∧ s.cfg.clkConst < (s.divisor + 1) * s.baud.toNat ∧
    (s.cfg.clkConst < s.baud.toNat → s.divisor = 0) ∧
    s.brgWrite.events = s.events ++ [⟨.write, s.ctrl, .brg, .divisor s.divisor⟩]

/-- 42_backend_primitives.md R150, 10_state.md R36: exactly one identity takes the alternate function, and the six
pins are distinct. (In whole or part the spec's own: decision D14; log entry 11.) -/
def Obligations.ControllerTablesAreStatic : Prop :=
  (∀ alt c, muxFnOf alt c = .alt ↔ c = alt) ∧
  (∀ c c', (pinsOf c).rx ≠ (pinsOf c').tx ∧
    ((pinsOf c).rx = (pinsOf c').rx → c = c') ∧ ((pinsOf c).tx = (pinsOf c').tx → c = c'))

/-! ### The gated commands -/

/-- 41_connection_ops.md R101, 60_exceptions.md R161: uninitialized, AVAILABLE, SEND, RECEIVE and ISINIT answer their
neutral value 0 and do nothing else. -/
def Obligations.GatedCommandsAreNeutralWhileUninitialized : Prop :=
  ∀ (i : Instr) (s : State), (i = .available ∨ (∃ b, i = .send b) ∨ i = .receive ∨ i = .isinit) →
    s.alive = true → s.initialized = false →
    exec i s = .next { s with seqRsp := some 0, seqLog := s.seqLog ++ [0] }

/-- 41_connection_ops.md R103 (b), 42_backend_primitives.md R133: AVAILABLE whose poll answers "not ready" makes that
one read and answers the count. -/
def Obligations.AvailableWithNothingWaiting : Prop :=
  ∀ s : State, s.alive = true → s.initialized = true → s.cfg.backend = .hardware →
    s.env.value.getLsbD 0 = false →
    exec .available s = .next { s with
      events := s.events ++ [⟨.read, s.ctrl, .sr, .rxrdy false⟩]
      env := s.env.next
      seqRsp := some s.rx.count
      seqLog := s.seqLog ++ [s.rx.count] }

/-- 41_connection_ops.md R103, 42_backend_primitives.md R133, R135: AVAILABLE whose poll answers "ready" reads `RHR`
once and pushes that byte, which a full `rx` drops, and answers the new count. -/
def Obligations.AvailableStagesExactlyOneByte : Prop :=
  ∀ (s : State) (b : Byte), s.alive = true → s.initialized = true → s.cfg.backend = .hardware →
    s.env.value.getLsbD 0 = true → s.env.next.value = b →
    ∃ t, exec .available s = .next t ∧
      t.events = s.events ++ [⟨.read, s.ctrl, .sr, .rxrdy true⟩, ⟨.read, s.ctrl, .rhr, .rxchr b⟩] ∧
      t.env = s.env.next.next ∧
      (s.rx.count = s.cfg.nRx → t.rx = s.rx) ∧
      (s.rx.count ≠ s.cfg.nRx → t.rx.stored s.rx.wr = some b ∧
        (∀ j, j ≠ s.rx.wr → t.rx.stored j = s.rx.stored j) ∧ t.rx.rd = s.rx.rd ∧
        t.rx.wr = (s.rx.wr + 1) % s.cfg.nRx ∧ t.rx.count = s.rx.count + 1) ∧
      t.seqRsp = some t.rx.count ∧ t.seqLog = s.seqLog ++ [t.rx.count] ∧ SameButRx s t

/-- 42_backend_primitives.md R147, R143, R145: on an initialized mock connection AVAILABLE returns `min(k + 1, N_RX)`
and leaves that count, RECEIVE returns 0xAA whenever `rx` is not empty and lowers the count, both keep `rx` filled with
0xAA only, and neither makes an event or a draw. (In whole or part the spec's own: derivation R147.) -/
def Obligations.MockGrowthLaw : Prop :=
  ∀ s : State, s.alive = true → s.initialized = true → s.cfg.backend = .mock →
    FifoInv s.cfg.nRx (fun b => b = 0xAA#8) s.rx →
    (∃ t, exec .available s = .next t ∧ t.seqRsp = some (min (s.rx.count + 1) s.cfg.nRx) ∧
      t.seqLog = s.seqLog ++ [min (s.rx.count + 1) s.cfg.nRx] ∧
      t.rx.count = min (s.rx.count + 1) s.cfg.nRx ∧ FifoInv s.cfg.nRx (fun b => b = 0xAA#8) t.rx ∧
      t.events = s.events ∧ t.env = s.env ∧ SameButRx s t) ∧
    (∃ t, exec .receive s = .next t ∧ t.seqRsp = some (if 0 < s.rx.count then 0xAA else 0) ∧
      t.seqLog = s.seqLog ++ [if 0 < s.rx.count then 0xAA else 0] ∧
      t.rx.count = s.rx.count - 1 ∧ FifoInv s.cfg.nRx (fun b => b = 0xAA#8) t.rx ∧
      t.events = s.events ∧ t.env = s.env ∧ SameButRx s t)

/-- 41_connection_ops.md R104, 42_backend_primitives.md R134, R144: SEND with a ready transmitter reads `TXRDY` once,
writes `THR` and answers true; on the mock it answers true and does nothing. -/
def Obligations.SendCompletesWhenReady : Prop :=
  ∀ (s : State) (b : Byte), s.alive = true → s.initialized = true →
    (s.cfg.backend = .hardware → s.env.value.getLsbD 0 = true →
      exec (.send b) s = .next { s with
        events := s.events ++ [⟨.read, s.ctrl, .sr, .txrdy true⟩, ⟨.write, s.ctrl, .thr, .txchr b⟩]
        env := s.env.next
        periph := s.periph.set s.ctrl { s.periph.get s.ctrl with thr := b }
        seqRsp := some 1
        seqLog := s.seqLog ++ [1] }) ∧
    (s.cfg.backend = .mock →
      exec (.send b) s = .next { s with seqRsp := some 1, seqLog := s.seqLog ++ [1] })

/-- 42_backend_primitives.md R134, 60_exceptions.md R164: SEND with a busy transmitter makes one poll in this step and
stays in phase S_POLL; it writes nothing and drives no response. (That the spin takes one step for each poll is the
model's choice, log entry 5.) -/
def Obligations.SendWaitsWhileBusy : Prop :=
  ∀ (s : State) (b : Byte), s.alive = true → s.initialized = true → s.cfg.backend = .hardware →
    s.env.value.getLsbD 0 = false →
    exec (.send b) s = .next { s with
      events := s.events ++ [⟨.read, s.ctrl, .sr, .txrdy false⟩]
      env := s.env.next
      seq := .sPoll
      txByte := b
      seqRsp := none }

/-- 42_backend_primitives.md R134: SEND with `k` busy polls and then a ready one: `k` reads of 0, one of 1, then the
write of the byte, and the response true. -/
def Obligations.SendCompletesAfterBusyPolls : Prop :=
  ∀ (s : State) (b ready : Byte) (busy later : List Byte), s.alive = true → s.initialized = true →
    s.cfg.backend = .hardware → s.seq = .idle → s.inputs = [.seqCmd (0x300 + b.toNat)] →
    s.env.script = busy ++ ready :: later → (∀ d ∈ busy, d.getLsbD 0 = false) → ready.getLsbD 0 = true →
    ∃ k t, Sys2Proof.core.run k s = .next t ∧ t.seq = .idle ∧ t.inputs = [] ∧
      t.events = s.events ++ List.replicate busy.length ⟨.read, s.ctrl, .sr, .txrdy false⟩ ++
        [⟨.read, s.ctrl, .sr, .txrdy true⟩, ⟨.write, s.ctrl, .thr, .txchr b⟩] ∧
      t.env.script = later ∧ t.seqRsp = some 1 ∧ t.seqLog = s.seqLog ++ [1] ∧
      t.rx = s.rx ∧ t.initialized = true ∧ (t.periph.get s.ctrl).thr = b

/-- 60_exceptions.md R164, 70_reset_and_hazards.md R202: while every `TXRDY` draw is 0, whatever supplies the draws, a
SEND never completes: `seq` stays at S_POLL, one read of 0 is appended for each step, nothing else happens, and nothing
that waits for the port is taken, a word, a pseudo-instruction or a result mark. (That each step makes exactly one poll
is the model's choice, log entry 5.) -/
def Obligations.SendHangsWhileEveryPollFails : Prop :=
  ∀ (s : State) (k : Nat), s.cfg.backend = .hardware → s.seq = .sPoll → s.env.NeverReady →
    (∀ x ∈ s.inputs, x.waits = true) →
    ∃ t, Sys2Proof.core.run k s = .next t ∧ t.seq = .sPoll ∧ t.inputs = s.inputs ∧
      t.events = s.events ++ List.replicate k ⟨.read, s.ctrl, .sr, .txrdy false⟩ ∧ t.env = s.env.afterDraws k ∧
      t.seqLog = s.seqLog ∧ t.hostLog = s.hostLog ∧ t.rx = s.rx ∧ t.periph = s.periph ∧ t.fifo = s.fifo ∧
      (k ≠ 0 → t.seqRsp = none)

/-- 41_connection_ops.md R105: RECEIVE pops `rx` and makes no access; uninitialized or on an empty `rx` it answers
0. -/
def Obligations.ReceivePopsTheStagedByte : Prop :=
  ∀ s : State, s.alive = true →
    decode s.cfg.w .seq 0x400 = .ok .receive ∧
    (s.initialized = false ∨ s.rx.count = 0 →
      exec .receive s = .next { s with seqRsp := some 0, seqLog := s.seqLog ++ [0] }) ∧
    (∀ v, s.initialized = true → s.rx.count ≠ 0 → s.rx.slotRead Config.unwrittenByte s.rx.rd = v →
      exec .receive s = .next { s with
        rx := { s.rx with rd := (s.rx.rd + 1) % s.cfg.nRx, count := s.rx.count - 1 }
        seqRsp := some v.toNat
        seqLog := s.seqLog ++ [v.toNat] })

/-! ### The ungated commands -/

/-- 41_connection_ops.md R106: ISINIT answers the flag and changes no state. -/
def Obligations.IsinitReportsTheFlag : Prop :=
  ∀ s : State, s.alive = true →
    decode s.cfg.w .seq 0x500 = .ok .isinit ∧
    exec .isinit s = .next { s with
      seqRsp := some (if s.initialized then 1 else 0)
      seqLog := s.seqLog ++ [if s.initialized then 1 else 0] }

/-- 41_connection_ops.md R107, R108; 42_backend_primitives.md R136, R137, R146: ENABLE and DISABLE make one write of
`CR` on hardware and do nothing on the mock, in either state of the flag. (In whole or part the spec's own: decisions
D18, D19.) -/
def Obligations.EnableAndDisableWriteControlOnly : Prop :=
  ∀ s : State, s.alive = true →
    (decode s.cfg.w .seq 0x600 = .ok .enable ∧ decode s.cfg.w .seq 0x700 = .ok .disable) ∧
    (s.cfg.backend = .hardware →
      exec .enable s = .next { s with
        events := s.events ++ [⟨.write, s.ctrl, .cr, .enables true true⟩]
        periph := s.periph.set s.ctrl { s.periph.get s.ctrl with txen := true, rxen := true }
        seqRsp := some 0
        seqLog := s.seqLog ++ [0] } ∧
      exec .disable s = .next { s with
        events := s.events ++ [⟨.write, s.ctrl, .cr, .enables false false⟩]
        periph := s.periph.set s.ctrl { s.periph.get s.ctrl with txen := false, rxen := false }
        seqRsp := some 0
        seqLog := s.seqLog ++ [0] }) ∧
    (s.cfg.backend = .mock →
      exec .enable s = .next { s with seqRsp := some 0, seqLog := s.seqLog ++ [0] } ∧
      exec .disable s = .next { s with seqRsp := some 0, seqLog := s.seqLog ++ [0] })

/-- 41_connection_ops.md R109: DESTROY disables the transport and ends the connection, in either state of the flag;
every command after it is refused. (In whole or part the spec's own: decisions D18, D24.) -/
def Obligations.DestroyDisablesAndEnds : Prop :=
  ∀ s : State, s.alive = true →
    decode s.cfg.w .seq 0x800 = .ok .destroy ∧
    (s.cfg.backend = .hardware → exec .destroy s = .next { s with
      alive := false
      events := s.events ++ [⟨.write, s.ctrl, .cr, .enables false false⟩]
      periph := s.periph.set s.ctrl { s.periph.get s.ctrl with txen := false, rxen := false }
      seqRsp := some 0
      seqLog := s.seqLog ++ [0] }) ∧
    (s.cfg.backend = .mock → exec .destroy s = .next { s with
      alive := false
      seqRsp := some 0
      seqLog := s.seqLog ++ [0] }) ∧
    (∀ (i : Instr) (t : State), exec .destroy s = .next t → i.port = .seq → exec i t = .refused .notAlive)

/-- 10_state.md R24: `alive` is 1 from reset until DESTROY completes, then 0, and "while `alive = 0` the connection
does not exist and every command is refused". (In whole or part the spec's own: decision D24.) -/
def Obligations.AliveFromResetToDestroy : Prop :=
  (∀ (straps : Straps) (s t : State), construct straps s = .next t → t.alive = true) ∧
  (∀ (i : Instr) (s t : State), exec i s = .next t →
    (i = .destroy → t.alive = false) ∧ (i ≠ .destroy → t.alive = s.alive)) ∧
  (∀ s t : State, step s = .next t → t.alive ≠ s.alive →
    ResetNext s ∨ ∃ word, Takes s (.seqCmd word) ∧ decode s.cfg.w .seq word = .ok .destroy) ∧
  (∀ (i : Instr) (s : State), i.port = .seq → s.alive = false → exec i s = .refused .notAlive)

/-! ### Construction -/

/-- 70_reset_and_hazards.md R192, 10_state.md R37: construction without eager initialisation, from any state, also
while a SEND spins: every register takes its reset value, no access is made, the peripheral registers stay. (In whole
or part the spec's own: decisions D2, D5.) -/
def Obligations.ConstructionResetsTheConnection : Prop :=
  ∀ (s : State) (straps : Straps) (rest : List Input) (c : CtrlId), s.inputs = .seqReset straps :: rest →
    straps.baud ≠ 0#32 → straps.ctrl = ctrlCode c → c ∉ s.othersLive → s.cfg.nRx ≠ 0 → straps.eager = false →
    step s = .next { s with
      inputs := rest
      initialized := false
      baud := straps.baud
      ctrl := c
      rx := { slots := [], rd := 0, wr := 0, count := 0 }
      seq := .idle
      alive := true
      txByte := 0#8
      events := []
      fifoRsp := none
      seqRsp := none
      seqLog := []
      hostLog := [] }

/-- 70_reset_and_hazards.md R193, 42_backend_primitives.md R131, R141: eager construction runs BEGIN inside the reset
step: every register takes its reset value, then on hardware the eight bring-up writes are the history and stand in the
registers of the new identity, on the mock no access is made, and the flag is set. (In whole or part the spec's own:
decisions D18, D27, D30, D31. That this BEGIN drives no response and the reset values of the model's own fields are the
model's choice, log entries 14, 15, 19.) -/
def Obligations.EagerConstructionBringsUp : Prop :=
  ∀ (s : State) (straps : Straps) (rest : List Input) (c : CtrlId), s.inputs = .seqReset straps :: rest →
    straps.baud ≠ 0#32 → straps.ctrl = ctrlCode c → c ∉ s.othersLive → s.cfg.nRx ≠ 0 → straps.eager = true →
    (s.cfg.backend = .mock → step s = .next { s with
      inputs := rest
      initialized := true
      baud := straps.baud
      ctrl := c
      rx := { slots := [], rd := 0, wr := 0, count := 0 }
      seq := .idle
      alive := true
      txByte := 0#8
      events := []
      fifoRsp := none
      seqRsp := none
      seqLog := []
      hostLog := [] }) ∧
    (s.cfg.backend = .hardware → s.cfg.clkConst / straps.baud.toNat < 2 ^ s.cfg.brgW → step s = .next { s with
      inputs := rest
      initialized := true
      baud := straps.baud
      ctrl := c
      rx := { slots := [], rd := 0, wr := 0, count := 0 }
      seq := .idle
      alive := true
      txByte := 0#8
      events :=
        [ ⟨.write, c, .pmxOwn, .owner ⟨⟨c, .rx⟩, ⟨c, .tx⟩⟩ .peripheral⟩,
          ⟨.write, c, .pmxFn, .function ⟨⟨c, .rx⟩, ⟨c, .tx⟩⟩ (if c = s.cfg.altCtrl then .alt else .main)⟩,
          ⟨.write, c, .clkEn, .clock true⟩,
          ⟨.write, c, .cr, .enables false false⟩,
          ⟨.write, c, .brg, .divisor (s.cfg.clkConst / straps.baud.toNat)⟩,
          ⟨.write, c, .mr, .frame ⟨8, .none, .normal, .plainDefault⟩⟩,
          ⟨.write, c, .imr, .intMask true⟩,
          ⟨.write, c, .cr, .enables true true⟩ ]
      periph := s.periph.set c
        { pmxOwnRx := .peripheral
          pmxOwnTx := .peripheral
          pmxFnRx := if c = s.cfg.altCtrl then .alt else .main
          pmxFnTx := if c = s.cfg.altCtrl then .alt else .main
          clkEn := true
          txen := true
          rxen := true
          brg := s.cfg.clkConst / straps.baud.toNat
          mr := ⟨8, .none, .normal, .plainDefault⟩
          imrAllMasked := true
          thr := (s.periph.get c).thr }
      fifoRsp := none
      seqRsp := none
      seqLog := []
      hostLog := [] })

/-- 60_exceptions.md R176, 42_backend_primitives.md R138: what a construction is refused for, each reason where the
ones tested before it do not hold; an eager one on hardware also for a divisor that does not fit `BRG`. (The order where
several hold is the model's choice, log entry 16, and so is that the too wide divisor refuses the whole reset, log entry
15. In whole or part the spec's own: decisions D7, D13, D17, D33.) -/
def Obligations.BadConstructionsAreRefused : Prop :=
  ∀ (s : State) (straps : Straps) (rest : List Input), s.inputs = .seqReset straps :: rest →
    (straps.baud = 0#32 → step s = .refused .badBaud) ∧
    (straps.baud ≠ 0#32 → straps.ctrl = 3#2 → step s = .refused .badController) ∧
    (∀ c, straps.baud ≠ 0#32 → straps.ctrl = ctrlCode c → c ∈ s.othersLive →
      step s = .refused .sharedController) ∧
    (∀ c, straps.baud ≠ 0#32 → straps.ctrl = ctrlCode c → c ∉ s.othersLive → s.cfg.nRx = 0 →
      step s = .refused .badCapacity) ∧
    (∀ c, straps.baud ≠ 0#32 → straps.ctrl = ctrlCode c → c ∉ s.othersLive → s.cfg.nRx ≠ 0 →
      straps.eager = true → s.cfg.backend = .hardware → 2 ^ s.cfg.brgW ≤ s.cfg.clkConst / straps.baud.toNat →
      step s = .refused .divisorTooWide)

/-- 10_state.md R37: the values the spec states for reset, in `State.reset`. (In whole or part the spec's own:
decisions D5, D22, D24.) -/
def Obligations.ResetValuesOfTheSpec : Prop :=
  State.reset.fifo.count = 0 ∧ State.reset.fifo.rd = 0 ∧ State.reset.fifo.wr = 0 ∧
  State.reset.rx.count = 0 ∧ State.reset.rx.rd = 0 ∧ State.reset.rx.wr = 0 ∧
  State.reset.initialized = false ∧ State.reset.seq = .idle ∧ State.reset.alive = true ∧
  State.reset.events = [] ∧
  (∀ j, State.reset.fifo.stored j = none ∧ State.reset.rx.stored j = none)

/-! ### Rules about the whole machine -/

/-- The invariant of the machine holds after reset (10_state.md R15, R37; `Inv` is in Safety.lean). That the straps of
`State.reset` are a positive baud rate and an identity of its own is the model's choice (log entry 7). -/
def Obligations.ResetStateHasTheInvariant : Prop := Inv State.reset

/-- Every step keeps the invariant of the machine: both FIFOs keep `wr = (rd + count) mod N`, their canonical form and
a value in every buffered slot (10_state.md R15, 20_memory.md R41); every `THR` write stands right after a `TXRDY` read
of 1 and every `RHR` read right after an `RXRDY` read of 1 (10_state.md R34, R35); the mock's history stays empty
(20_memory.md R55); every access names the connection's identity; every response fits its port (30_encoding.md
R67). -/
def Obligations.EveryStepKeepsTheInvariant : Prop :=
  ∀ s t : State, Inv s → step s = .next t → Inv t

/-- 10_state.md R18: `initialized` "is never cleared by any command", and only BEGIN sets it. -/
def Obligations.OnlyBeginChangesTheInitializedFlag : Prop :=
  (∀ (i : Instr) (s t : State), exec i s = .next t → t.initialized ≠ s.initialized →
    i = .begin ∧ s.initialized = false ∧ t.initialized = true) ∧
  (∀ s t : State, step s = .next t → ¬ ResetNext s → s.initialized = true → t.initialized = true)

/-- 10_state.md R19, R20, 00_scope.md R7: `baud` and `ctrl` are written by construction only, and the parameters by
nothing. (That the identities of other connections change by no step either is the model's choice, log entry 12.) -/
def Obligations.StrapsAndParametersAreLatched : Prop :=
  ∀ s t : State, step s = .next t →
    t.cfg = s.cfg ∧ t.othersLive = s.othersLive ∧ (¬ ResetNext s → t.baud = s.baud ∧ t.ctrl = s.ctrl)

/-- 20_memory.md R55, R49, 10_state.md R20: the event history "is only ever appended to" between resets, and every new
event names the connection's own identity. -/
def Obligations.HistoryIsOnlyAppendedTo : Prop :=
  ∀ s t : State, step s = .next t → ¬ ResetNext s →
    ∃ l, t.events = s.events ++ l ∧ ∀ e ∈ l, e.c = s.ctrl

/-- 42_backend_primitives.md R149: a step of this connection touches the registers of its own identity only, and a
construction those of the identity it takes. -/
def Obligations.OtherIdentitiesRegistersAreUntouched : Prop :=
  ∀ (s t : State) (c : CtrlId), step s = .next t → c ≠ t.ctrl → t.periph.get c = s.periph.get c

/-- 20_memory.md R56: "a byte reaches `THR` only from the operand of SEND": said of a command, and of a step, in which
the byte is the operand of the SEND word just taken or of the SEND that waited, held in `txByte`, which only SEND writes
(that a waiting SEND keeps its operand there is the model's choice, log entry 19). -/
def Obligations.ThrBytesAreSendOperands : Prop :=
  (∀ (i : Instr) (s t : State) (l : List Event) (e : Event) (b : Byte), exec i s = .next t →
    t.events = s.events ++ l → e ∈ l → e.value = .txchr b → i = .send b) ∧
  (∀ (s t : State) (l : List Event) (e : Event) (b : Byte), step s = .next t →
    t.events = s.events ++ l → e ∈ l → e.value = .txchr b →
    (∃ word, Takes s (.seqCmd word) ∧ decode s.cfg.w .seq word = .ok (.send b)) ∨
      (s.seq = .sWrite ∧ s.txByte = b)) ∧
  (∀ (i : Instr) (s t : State), exec i s = .next t → t.txByte ≠ s.txByte → i = .send t.txByte) ∧
  (∀ s t : State, step s = .next t → ¬ ResetNext s → t.txByte ≠ s.txByte →
    ∃ word, Takes s (.seqCmd word) ∧ decode s.cfg.w .seq word = .ok (.send t.txByte))

/-- 10_state.md R21, 20_memory.md R56: "Only AVAILABLE pushes into it and only RECEIVE pops from it". -/
def Obligations.OnlyAvailableAndReceiveTouchTheReceiveFifo : Prop :=
  ∀ (i : Instr) (s t : State), exec i s = .next t → i ≠ .available → i ≠ .receive → t.rx = s.rx

/-- 40_fifo_ops.md R80, 10_state.md R21: a sequencer command leaves the bare FIFO block, a FIFO command the
sequencer. -/
def Obligations.BlocksAreIndependent : Prop :=
  ∀ (i : Instr) (s t : State), exec i s = .next t →
    (i.port = .seq → t.fifo = s.fifo ∧ t.fifoRsp = s.fifoRsp ∧ t.fifoLog = s.fifoLog) ∧
    (i.port = .fifo → SameButFifo s t)

/-- 41_connection_ops.md R117: on the hardware backend the one step of BEGIN, AVAILABLE and SEND is what the walk of
`seq` does, one access for each phase. (In whole or part the spec's own: decision D22. That a step walks one phase, so
that nine, one or two steps are the walk, is the model's choice, log entry 5.) -/
def Obligations.CommandsRefineTheirPhases : Prop :=
  ∀ s : State, s.alive = true → s.cfg.backend = .hardware → s.seq = .idle → s.inputs = [] →
    s.fifoRsp = none → s.seqRsp = none →
    (s.initialized = false → s.divisorTooWide = false →
      Sys2Proof.core.run 9 { s with seq := .bRelease } = exec .begin s) ∧
    (s.initialized = true → s.drawnFlag = false →
      Sys2Proof.core.run 1 { s with seq := .aPoll } = exec .available s) ∧
    (s.initialized = true → s.drawnFlag = true →
      Sys2Proof.core.run 2 { s with seq := .aPoll } = exec .available s) ∧
    (∀ b, s.initialized = true → s.drawnFlag = true →
      Sys2Proof.core.run 2 { s with seq := .sPoll, txByte := b } = exec (.send b) { s with txByte := b }) ∧
    (∀ b, s.initialized = true → s.drawnFlag = false →
      Sys2Proof.core.run 1 { s with seq := .sPoll, txByte := b } = exec (.send b) s)

/-- 42_backend_primitives.md R148: a hardware connection whose draws are all 1 and 0xAA answers every command as the
mock does, and the two stay indistinguishable. (In whole or part the spec's own: derivation R148.) -/
def Obligations.HardwareCanStandForTheMock : Prop :=
  ∀ (i : Instr) (h m t : State), Twins h m → (i = .begin → h.divisorTooWide = false) →
    DrawsLikeMock h.env i → exec i m = .next t → ∃ u, exec i h = .next u ∧ Twins u t

/-! ### Pseudo-instructions -/

/-- 41_connection_ops.md R110: SENDN is one SEND word for each byte, in ascending index order, and the result true;
uninitialized no command and the result false, which the host then has noted; a result's mark makes the host note it and
does nothing else. (In whole or part the spec's own: decision D34. The mark, `hostLog` and the steps they take are the
model's choice, log entry 13.) -/
def Obligations.SendnIsOneSendPerByte : Prop :=
  (∀ (s : State) (bytes : List Byte) (rest : List Input), s.inputs = .pseudo (.sendn bytes) :: rest →
    s.seq = .idle → s.alive = true →
    (s.initialized = true → step s = .next { s with
      inputs := bytes.map (fun b => .seqCmd (0x300 + b.toNat)) ++ .hostResult true :: rest
      fifoRsp := none
      seqRsp := none }) ∧
    (s.initialized = false →
      step s = .next { s with
        inputs := .hostResult false :: rest
        fifoRsp := none
        seqRsp := none } ∧
      Sys2Proof.core.run 2 s = .next { s with
        inputs := rest
        fifoRsp := none
        seqRsp := none
        hostLog := s.hostLog ++ [false] })) ∧
  (∀ (s : State) (result : Bool) (rest : List Input), s.inputs = .hostResult result :: rest → s.seq = .idle →
    step s = .next { s with
      inputs := rest
      fifoRsp := none
      seqRsp := none
      hostLog := s.hostLog ++ [result] })

/-- 41_connection_ops.md R110, R104; 42_backend_primitives.md R144: run on the mock, SENDN answers true to each byte,
notes the result true, and makes no event. (In whole or part the spec's own: decision D34.) -/
def Obligations.SendnCompletesOnTheMock : Prop :=
  ∀ (s : State) (bytes : List Byte), s.inputs = [.pseudo (.sendn bytes)] → s.seq = .idle → s.alive = true →
    s.initialized = true → s.cfg.backend = .mock →
    Sys2Proof.core.run (bytes.length + 2) s = .next { s with
      inputs := []
      fifoRsp := none
      seqRsp := none
      seqLog := s.seqLog ++ List.replicate bytes.length 1
      hostLog := s.hostLog ++ [true] }

/-- 41_connection_ops.md R111: SENDZ is SENDN of the bytes before the first zero byte; without one it is refused. (In
whole or part the spec's own: decision D34. That the terminator is looked for before the gate, so that an unterminated
text is refused on an uninitialized connection too, is the model's choice, log entry 13.) -/
def Obligations.SendzSendsTheTextBeforeTheZero : Prop :=
  ∀ (s : State) (rest : List Input) (bytes : List Byte), s.inputs = .pseudo (.sendz bytes) :: rest →
    s.seq = .idle → s.alive = true →
    (∀ text junk, bytes = text ++ 0#8 :: junk → (∀ b ∈ text, b ≠ 0#8) →
      step s = step { s with inputs := .pseudo (.sendn text) :: rest }) ∧
    ((∀ b ∈ bytes, b ≠ 0#8) → step s = .refused .noTerminator)

/-- 41_connection_ops.md R112 to R114: PUTC and INS of a byte are SEND, GETC and EXT are RECEIVE, INS of a sequence or
of text is SENDN or SENDZ of it with the result discarded. (In whole or part the spec's own: decision D34. That each
form takes a step of its own that puts its words in its place, that PUTC notes no result, and that INS of unterminated
text is refused while uninitialized too is the model's choice, log entry 13.) -/
def Obligations.StreamFormsAreSendAndReceive : Prop :=
  ∀ (s : State) (rest : List Input) (b : Byte) (bytes : List Byte), s.seq = .idle → s.alive = true →
    step { s with inputs := .pseudo (.putc b) :: rest } =
      .next { s with inputs := .seqCmd (0x300 + b.toNat) :: rest, fifoRsp := none, seqRsp := none } ∧
    step { s with inputs := .pseudo (.ins b) :: rest } =
      .next { s with inputs := .seqCmd (0x300 + b.toNat) :: rest, fifoRsp := none, seqRsp := none } ∧
    step { s with inputs := .pseudo .getc :: rest } =
      .next { s with inputs := .seqCmd 0x400 :: rest, fifoRsp := none, seqRsp := none } ∧
    step { s with inputs := .pseudo .ext :: rest } =
      .next { s with inputs := .seqCmd 0x400 :: rest, fifoRsp := none, seqRsp := none } ∧
    step { s with inputs := .pseudo (.insBytes bytes) :: rest } =
      .next { s with
        inputs := (if s.initialized then bytes.map (fun x => .seqCmd (0x300 + x.toNat)) else []) ++ rest
        fifoRsp := none
        seqRsp := none } ∧
    (∀ junk, (∀ x ∈ bytes, x ≠ 0#8) →
      step { s with inputs := .pseudo (.insText (bytes ++ 0#8 :: junk)) :: rest } =
        step { s with inputs := .pseudo (.insBytes bytes) :: rest }) ∧
    ((∀ x ∈ bytes, x ≠ 0#8) →
      step { s with inputs := .pseudo (.insText bytes) :: rest } = .refused .noTerminator)

/-! ### Reset over a command in flight -/

/-- 70_reset_and_hazards.md R190, 30_encoding.md R60: what is held in front of the sequencer's port while a command is
in flight stops neither the time that passes, nor the FIFO's port, nor a reset of either block; a reset of the
sequencer withdraws what is held, the words and the result mark of a SENDN among it. (In whole or part the spec's own:
decisions D1, D2. The one list of the host's actions and the withdrawal are the model's choice, log entry 2.) -/
def Obligations.HeldInputsLetTheOthersPass : Prop :=
  ∀ (s : State) (held rest : List Input), s.seq ≠ .idle → (∀ x ∈ held, x.waits = true) →
    (s.inputs = held ++ .idle :: rest → step s = step { s with inputs := .idle :: (held ++ rest) }) ∧
    (∀ word, s.inputs = held ++ .fifoCmd word :: rest →
      step s = step { s with inputs := .fifoCmd word :: (held ++ rest) }) ∧
    (s.inputs = held ++ .fifoReset :: rest → step s = step { s with inputs := .fifoReset :: (held ++ rest) }) ∧
    (∀ straps, s.inputs = held ++ .seqReset straps :: rest →
      step s = step { s with inputs := .seqReset straps :: rest })

/-- 60_exceptions.md R164, 70_reset_and_hazards.md R190: "Only reset ends it": over any number of steps of a SEND that
never gets a ready transmitter, with anything held behind it (the rest of a SENDN, other words), a reset ends the hang:
the connection is new and idle, and what was held is gone. (In whole or part the spec's own: decisions D2, D5. One poll
a step, the host's list, and the withdrawal are the model's choice, log entries 5 and 2.) -/
def Obligations.ResetEndsAHang : Prop :=
  ∀ (s : State) (held rest : List Input) (k : Nat) (straps : Straps) (c : CtrlId), s.cfg.backend = .hardware →
    s.seq = .sPoll → s.env.NeverReady → (∀ x ∈ held, x.waits = true) →
    s.inputs = held ++ List.replicate k .idle ++ .seqReset straps :: rest →
    straps.baud ≠ 0#32 → straps.ctrl = ctrlCode c → c ∉ s.othersLive → s.cfg.nRx ≠ 0 → straps.eager = false →
    Sys2Proof.core.run (k + 1) s = .next { s with
      inputs := rest
      initialized := false
      baud := straps.baud
      ctrl := c
      rx := { slots := [], rd := 0, wr := 0, count := 0 }
      seq := .idle
      alive := true
      txByte := 0#8
      events := []
      env := s.env.afterDraws k
      fifoRsp := none
      seqRsp := none
      seqLog := []
      hostLog := [] }
end

