-- ==== Sys2Proof/Laws/State.lean ====
section
/-! SUPPORT. One lemma for each field and each named update of the state, true by computation, so that no proof has to
unfold a record update. -/

namespace Sys2Proof.Machine

variable (s : State)

/-! `State.respondFifo` -/

@[simp] theorem State.respondFifo_cfg (v : Nat) : (s.respondFifo v).cfg = s.cfg := rfl
@[simp] theorem State.respondFifo_fifo (v : Nat) : (s.respondFifo v).fifo = s.fifo := rfl
@[simp] theorem State.respondFifo_fifoRsp (v : Nat) : (s.respondFifo v).fifoRsp = some v := rfl
@[simp] theorem State.respondFifo_fifoLog (v : Nat) : (s.respondFifo v).fifoLog = s.fifoLog ++ [v] := rfl
@[simp] theorem State.respondFifo_initialized (v : Nat) : (s.respondFifo v).initialized = s.initialized := rfl
@[simp] theorem State.respondFifo_baud (v : Nat) : (s.respondFifo v).baud = s.baud := rfl
@[simp] theorem State.respondFifo_ctrl (v : Nat) : (s.respondFifo v).ctrl = s.ctrl := rfl
@[simp] theorem State.respondFifo_rx (v : Nat) : (s.respondFifo v).rx = s.rx := rfl
@[simp] theorem State.respondFifo_seq (v : Nat) : (s.respondFifo v).seq = s.seq := rfl
@[simp] theorem State.respondFifo_alive (v : Nat) : (s.respondFifo v).alive = s.alive := rfl
@[simp] theorem State.respondFifo_txByte (v : Nat) : (s.respondFifo v).txByte = s.txByte := rfl
@[simp] theorem State.respondFifo_events (v : Nat) : (s.respondFifo v).events = s.events := rfl
@[simp] theorem State.respondFifo_seqRsp (v : Nat) : (s.respondFifo v).seqRsp = s.seqRsp := rfl
@[simp] theorem State.respondFifo_seqLog (v : Nat) : (s.respondFifo v).seqLog = s.seqLog := rfl
@[simp] theorem State.respondFifo_periph (v : Nat) : (s.respondFifo v).periph = s.periph := rfl
@[simp] theorem State.respondFifo_env (v : Nat) : (s.respondFifo v).env = s.env := rfl
@[simp] theorem State.respondFifo_othersLive (v : Nat) : (s.respondFifo v).othersLive = s.othersLive := rfl
@[simp] theorem State.respondFifo_inputs (v : Nat) : (s.respondFifo v).inputs = s.inputs := rfl
@[simp] theorem State.respondFifo_hostLog (v : Nat) : (s.respondFifo v).hostLog = s.hostLog := rfl

/-! `State.respondSeq` -/

@[simp] theorem State.respondSeq_cfg (v : Nat) : (s.respondSeq v).cfg = s.cfg := rfl
@[simp] theorem State.respondSeq_fifo (v : Nat) : (s.respondSeq v).fifo = s.fifo := rfl
@[simp] theorem State.respondSeq_fifoRsp (v : Nat) : (s.respondSeq v).fifoRsp = s.fifoRsp := rfl
@[simp] theorem State.respondSeq_fifoLog (v : Nat) : (s.respondSeq v).fifoLog = s.fifoLog := rfl
@[simp] theorem State.respondSeq_initialized (v : Nat) : (s.respondSeq v).initialized = s.initialized := rfl
@[simp] theorem State.respondSeq_baud (v : Nat) : (s.respondSeq v).baud = s.baud := rfl
@[simp] theorem State.respondSeq_ctrl (v : Nat) : (s.respondSeq v).ctrl = s.ctrl := rfl
@[simp] theorem State.respondSeq_rx (v : Nat) : (s.respondSeq v).rx = s.rx := rfl
@[simp] theorem State.respondSeq_seq (v : Nat) : (s.respondSeq v).seq = s.seq := rfl
@[simp] theorem State.respondSeq_alive (v : Nat) : (s.respondSeq v).alive = s.alive := rfl
@[simp] theorem State.respondSeq_txByte (v : Nat) : (s.respondSeq v).txByte = s.txByte := rfl
@[simp] theorem State.respondSeq_events (v : Nat) : (s.respondSeq v).events = s.events := rfl
@[simp] theorem State.respondSeq_seqRsp (v : Nat) : (s.respondSeq v).seqRsp = some v := rfl
@[simp] theorem State.respondSeq_seqLog (v : Nat) : (s.respondSeq v).seqLog = s.seqLog ++ [v] := rfl
@[simp] theorem State.respondSeq_periph (v : Nat) : (s.respondSeq v).periph = s.periph := rfl
@[simp] theorem State.respondSeq_env (v : Nat) : (s.respondSeq v).env = s.env := rfl
@[simp] theorem State.respondSeq_othersLive (v : Nat) : (s.respondSeq v).othersLive = s.othersLive := rfl
@[simp] theorem State.respondSeq_inputs (v : Nat) : (s.respondSeq v).inputs = s.inputs := rfl
@[simp] theorem State.respondSeq_hostLog (v : Nat) : (s.respondSeq v).hostLog = s.hostLog := rfl

/-! `State.quiet` -/

@[simp] theorem State.quiet_cfg : s.quiet.cfg = s.cfg := rfl
@[simp] theorem State.quiet_fifo : s.quiet.fifo = s.fifo := rfl
@[simp] theorem State.quiet_fifoRsp : s.quiet.fifoRsp = none := rfl
@[simp] theorem State.quiet_fifoLog : s.quiet.fifoLog = s.fifoLog := rfl
@[simp] theorem State.quiet_initialized : s.quiet.initialized = s.initialized := rfl
@[simp] theorem State.quiet_baud : s.quiet.baud = s.baud := rfl
@[simp] theorem State.quiet_ctrl : s.quiet.ctrl = s.ctrl := rfl
@[simp] theorem State.quiet_rx : s.quiet.rx = s.rx := rfl
@[simp] theorem State.quiet_seq : s.quiet.seq = s.seq := rfl
@[simp] theorem State.quiet_alive : s.quiet.alive = s.alive := rfl
@[simp] theorem State.quiet_txByte : s.quiet.txByte = s.txByte := rfl
@[simp] theorem State.quiet_events : s.quiet.events = s.events := rfl
@[simp] theorem State.quiet_seqRsp : s.quiet.seqRsp = none := rfl
@[simp] theorem State.quiet_seqLog : s.quiet.seqLog = s.seqLog := rfl
@[simp] theorem State.quiet_periph : s.quiet.periph = s.periph := rfl
@[simp] theorem State.quiet_env : s.quiet.env = s.env := rfl
@[simp] theorem State.quiet_othersLive : s.quiet.othersLive = s.othersLive := rfl
@[simp] theorem State.quiet_inputs : s.quiet.inputs = s.inputs := rfl
@[simp] theorem State.quiet_hostLog : s.quiet.hostLog = s.hostLog := rfl

/-! `State.periphWrite` -/

@[simp] theorem State.periphWrite_cfg (v : PVal) : (s.periphWrite v).cfg = s.cfg := rfl
@[simp] theorem State.periphWrite_fifo (v : PVal) : (s.periphWrite v).fifo = s.fifo := rfl
@[simp] theorem State.periphWrite_fifoRsp (v : PVal) : (s.periphWrite v).fifoRsp = s.fifoRsp := rfl
@[simp] theorem State.periphWrite_fifoLog (v : PVal) : (s.periphWrite v).fifoLog = s.fifoLog := rfl
@[simp] theorem State.periphWrite_initialized (v : PVal) : (s.periphWrite v).initialized = s.initialized := rfl
@[simp] theorem State.periphWrite_baud (v : PVal) : (s.periphWrite v).baud = s.baud := rfl
@[simp] theorem State.periphWrite_ctrl (v : PVal) : (s.periphWrite v).ctrl = s.ctrl := rfl
@[simp] theorem State.periphWrite_rx (v : PVal) : (s.periphWrite v).rx = s.rx := rfl
@[simp] theorem State.periphWrite_seq (v : PVal) : (s.periphWrite v).seq = s.seq := rfl
@[simp] theorem State.periphWrite_alive (v : PVal) : (s.periphWrite v).alive = s.alive := rfl
@[simp] theorem State.periphWrite_txByte (v : PVal) : (s.periphWrite v).txByte = s.txByte := rfl
@[simp] theorem State.periphWrite_events (v : PVal) :
    (s.periphWrite v).events = s.events ++ [{ dir := .write, c := s.ctrl, reg := regOf v, value := v }] := rfl
@[simp] theorem State.periphWrite_seqRsp (v : PVal) : (s.periphWrite v).seqRsp = s.seqRsp := rfl
@[simp] theorem State.periphWrite_seqLog (v : PVal) : (s.periphWrite v).seqLog = s.seqLog := rfl
@[simp] theorem State.periphWrite_periph (v : PVal) :
    (s.periphWrite v).periph = s.periph.set s.ctrl (storeReg (s.periph.get s.ctrl) v) := rfl
@[simp] theorem State.periphWrite_env (v : PVal) : (s.periphWrite v).env = s.env := rfl
@[simp] theorem State.periphWrite_othersLive (v : PVal) : (s.periphWrite v).othersLive = s.othersLive := rfl
@[simp] theorem State.periphWrite_inputs (v : PVal) : (s.periphWrite v).inputs = s.inputs := rfl
@[simp] theorem State.periphWrite_hostLog (v : PVal) : (s.periphWrite v).hostLog = s.hostLog := rfl

/-! `State.periphRead` -/

@[simp] theorem State.periphRead_cfg (v : PVal) : (s.periphRead v).cfg = s.cfg := rfl
@[simp] theorem State.periphRead_fifo (v : PVal) : (s.periphRead v).fifo = s.fifo := rfl
@[simp] theorem State.periphRead_fifoRsp (v : PVal) : (s.periphRead v).fifoRsp = s.fifoRsp := rfl
@[simp] theorem State.periphRead_fifoLog (v : PVal) : (s.periphRead v).fifoLog = s.fifoLog := rfl
@[simp] theorem State.periphRead_initialized (v : PVal) : (s.periphRead v).initialized = s.initialized := rfl
@[simp] theorem State.periphRead_baud (v : PVal) : (s.periphRead v).baud = s.baud := rfl
@[simp] theorem State.periphRead_ctrl (v : PVal) : (s.periphRead v).ctrl = s.ctrl := rfl
@[simp] theorem State.periphRead_rx (v : PVal) : (s.periphRead v).rx = s.rx := rfl
@[simp] theorem State.periphRead_seq (v : PVal) : (s.periphRead v).seq = s.seq := rfl
@[simp] theorem State.periphRead_alive (v : PVal) : (s.periphRead v).alive = s.alive := rfl
@[simp] theorem State.periphRead_txByte (v : PVal) : (s.periphRead v).txByte = s.txByte := rfl
@[simp] theorem State.periphRead_events (v : PVal) :
    (s.periphRead v).events = s.events ++ [{ dir := .read, c := s.ctrl, reg := regOf v, value := v }] := rfl
@[simp] theorem State.periphRead_seqRsp (v : PVal) : (s.periphRead v).seqRsp = s.seqRsp := rfl
@[simp] theorem State.periphRead_seqLog (v : PVal) : (s.periphRead v).seqLog = s.seqLog := rfl
@[simp] theorem State.periphRead_periph (v : PVal) : (s.periphRead v).periph = s.periph := rfl
@[simp] theorem State.periphRead_env (v : PVal) : (s.periphRead v).env = s.env.next := rfl
@[simp] theorem State.periphRead_othersLive (v : PVal) : (s.periphRead v).othersLive = s.othersLive := rfl
@[simp] theorem State.periphRead_inputs (v : PVal) : (s.periphRead v).inputs = s.inputs := rfl
@[simp] theorem State.periphRead_hostLog (v : PVal) : (s.periphRead v).hostLog = s.hostLog := rfl

/-! `State.finish` -/

@[simp] theorem State.finish_cfg (v : Nat) : (s.finish v).cfg = s.cfg := rfl
@[simp] theorem State.finish_fifo (v : Nat) : (s.finish v).fifo = s.fifo := rfl
@[simp] theorem State.finish_fifoRsp (v : Nat) : (s.finish v).fifoRsp = s.fifoRsp := rfl
@[simp] theorem State.finish_fifoLog (v : Nat) : (s.finish v).fifoLog = s.fifoLog := rfl
@[simp] theorem State.finish_initialized (v : Nat) : (s.finish v).initialized = s.initialized := rfl
@[simp] theorem State.finish_baud (v : Nat) : (s.finish v).baud = s.baud := rfl
@[simp] theorem State.finish_ctrl (v : Nat) : (s.finish v).ctrl = s.ctrl := rfl
@[simp] theorem State.finish_rx (v : Nat) : (s.finish v).rx = s.rx := rfl
@[simp] theorem State.finish_seq (v : Nat) : (s.finish v).seq = .idle := rfl
@[simp] theorem State.finish_alive (v : Nat) : (s.finish v).alive = s.alive := rfl
@[simp] theorem State.finish_txByte (v : Nat) : (s.finish v).txByte = s.txByte := rfl
@[simp] theorem State.finish_events (v : Nat) : (s.finish v).events = s.events := rfl
@[simp] theorem State.finish_seqRsp (v : Nat) : (s.finish v).seqRsp = some v := rfl
@[simp] theorem State.finish_seqLog (v : Nat) : (s.finish v).seqLog = s.seqLog ++ [v] := rfl
@[simp] theorem State.finish_periph (v : Nat) : (s.finish v).periph = s.periph := rfl
@[simp] theorem State.finish_env (v : Nat) : (s.finish v).env = s.env := rfl
@[simp] theorem State.finish_othersLive (v : Nat) : (s.finish v).othersLive = s.othersLive := rfl
@[simp] theorem State.finish_inputs (v : Nat) : (s.finish v).inputs = s.inputs := rfl
@[simp] theorem State.finish_hostLog (v : Nat) : (s.finish v).hostLog = s.hostLog := rfl

/-! `State.pending` -/

@[simp] theorem State.pending_cfg (rest : List Input) : (s.pending rest).cfg = s.cfg := rfl
@[simp] theorem State.pending_fifo (rest : List Input) : (s.pending rest).fifo = s.fifo := rfl
@[simp] theorem State.pending_fifoRsp (rest : List Input) : (s.pending rest).fifoRsp = s.fifoRsp := rfl
@[simp] theorem State.pending_fifoLog (rest : List Input) : (s.pending rest).fifoLog = s.fifoLog := rfl
@[simp] theorem State.pending_initialized (rest : List Input) : (s.pending rest).initialized = s.initialized := rfl
@[simp] theorem State.pending_baud (rest : List Input) : (s.pending rest).baud = s.baud := rfl
@[simp] theorem State.pending_ctrl (rest : List Input) : (s.pending rest).ctrl = s.ctrl := rfl
@[simp] theorem State.pending_rx (rest : List Input) : (s.pending rest).rx = s.rx := rfl
@[simp] theorem State.pending_seq (rest : List Input) : (s.pending rest).seq = s.seq := rfl
@[simp] theorem State.pending_alive (rest : List Input) : (s.pending rest).alive = s.alive := rfl
@[simp] theorem State.pending_txByte (rest : List Input) : (s.pending rest).txByte = s.txByte := rfl
@[simp] theorem State.pending_events (rest : List Input) : (s.pending rest).events = s.events := rfl
@[simp] theorem State.pending_seqRsp (rest : List Input) : (s.pending rest).seqRsp = s.seqRsp := rfl
@[simp] theorem State.pending_seqLog (rest : List Input) : (s.pending rest).seqLog = s.seqLog := rfl
@[simp] theorem State.pending_periph (rest : List Input) : (s.pending rest).periph = s.periph := rfl
@[simp] theorem State.pending_env (rest : List Input) : (s.pending rest).env = s.env := rfl
@[simp] theorem State.pending_othersLive (rest : List Input) : (s.pending rest).othersLive = s.othersLive := rfl
@[simp] theorem State.pending_inputs (rest : List Input) : (s.pending rest).inputs = rest := rfl
@[simp] theorem State.pending_hostLog (rest : List Input) : (s.pending rest).hostLog = s.hostLog := rfl

/-! `State.goto` -/

@[simp] theorem State.goto_cfg (p : Phase) : (s.goto p).cfg = s.cfg := rfl
@[simp] theorem State.goto_fifo (p : Phase) : (s.goto p).fifo = s.fifo := rfl
@[simp] theorem State.goto_fifoRsp (p : Phase) : (s.goto p).fifoRsp = s.fifoRsp := rfl
@[simp] theorem State.goto_fifoLog (p : Phase) : (s.goto p).fifoLog = s.fifoLog := rfl
@[simp] theorem State.goto_initialized (p : Phase) : (s.goto p).initialized = s.initialized := rfl
@[simp] theorem State.goto_baud (p : Phase) : (s.goto p).baud = s.baud := rfl
@[simp] theorem State.goto_ctrl (p : Phase) : (s.goto p).ctrl = s.ctrl := rfl
@[simp] theorem State.goto_rx (p : Phase) : (s.goto p).rx = s.rx := rfl
@[simp] theorem State.goto_seq (p : Phase) : (s.goto p).seq = p := rfl
@[simp] theorem State.goto_alive (p : Phase) : (s.goto p).alive = s.alive := rfl
@[simp] theorem State.goto_txByte (p : Phase) : (s.goto p).txByte = s.txByte := rfl
@[simp] theorem State.goto_events (p : Phase) : (s.goto p).events = s.events := rfl
@[simp] theorem State.goto_seqRsp (p : Phase) : (s.goto p).seqRsp = s.seqRsp := rfl
@[simp] theorem State.goto_seqLog (p : Phase) : (s.goto p).seqLog = s.seqLog := rfl
@[simp] theorem State.goto_periph (p : Phase) : (s.goto p).periph = s.periph := rfl
@[simp] theorem State.goto_env (p : Phase) : (s.goto p).env = s.env := rfl
@[simp] theorem State.goto_othersLive (p : Phase) : (s.goto p).othersLive = s.othersLive := rfl
@[simp] theorem State.goto_inputs (p : Phase) : (s.goto p).inputs = s.inputs := rfl
@[simp] theorem State.goto_hostLog (p : Phase) : (s.goto p).hostLog = s.hostLog := rfl

/-! `State.stage` -/

@[simp] theorem State.stage_cfg (b : Byte) : (s.stage b).cfg = s.cfg := rfl
@[simp] theorem State.stage_fifo (b : Byte) : (s.stage b).fifo = s.fifo := rfl
@[simp] theorem State.stage_fifoRsp (b : Byte) : (s.stage b).fifoRsp = s.fifoRsp := rfl
@[simp] theorem State.stage_fifoLog (b : Byte) : (s.stage b).fifoLog = s.fifoLog := rfl
@[simp] theorem State.stage_initialized (b : Byte) : (s.stage b).initialized = s.initialized := rfl
@[simp] theorem State.stage_baud (b : Byte) : (s.stage b).baud = s.baud := rfl
@[simp] theorem State.stage_ctrl (b : Byte) : (s.stage b).ctrl = s.ctrl := rfl
@[simp] theorem State.stage_rx (b : Byte) : (s.stage b).rx = s.rx.push s.cfg.nRx b := rfl
@[simp] theorem State.stage_seq (b : Byte) : (s.stage b).seq = s.seq := rfl
@[simp] theorem State.stage_alive (b : Byte) : (s.stage b).alive = s.alive := rfl
@[simp] theorem State.stage_txByte (b : Byte) : (s.stage b).txByte = s.txByte := rfl
@[simp] theorem State.stage_events (b : Byte) : (s.stage b).events = s.events := rfl
@[simp] theorem State.stage_seqRsp (b : Byte) : (s.stage b).seqRsp = s.seqRsp := rfl
@[simp] theorem State.stage_seqLog (b : Byte) : (s.stage b).seqLog = s.seqLog := rfl
@[simp] theorem State.stage_periph (b : Byte) : (s.stage b).periph = s.periph := rfl
@[simp] theorem State.stage_env (b : Byte) : (s.stage b).env = s.env := rfl
@[simp] theorem State.stage_othersLive (b : Byte) : (s.stage b).othersLive = s.othersLive := rfl
@[simp] theorem State.stage_inputs (b : Byte) : (s.stage b).inputs = s.inputs := rfl
@[simp] theorem State.stage_hostLog (b : Byte) : (s.stage b).hostLog = s.hostLog := rfl

end Sys2Proof.Machine
end

