-- ==== Sys2Proof/Laws/Ops.lean ====
section
/-! SUPPORT. What each shared operation and each step can do, said once: if it answers a next state, then one of these
cases holds. Proofs cite these instead of unfolding the operation. -/

namespace Sys2Proof.Machine

variable {s t : State} {o : Host.Outcome State Fault Refusal}

theorem onNext_next {f : State → State} (h : onNext o f = .next t) : ∃ u, o = .next u ∧ t = f u := by
  cases o with
  | next u =>
    simp only [onNext, Host.Outcome.next.injEq] at h
    exact ⟨u, rfl, h.symm⟩
  | fault r => simp [onNext] at h
  | refused r => simp [onNext] at h

theorem ifAlive_next (h : ifAlive s o = .next t) : s.alive = true ∧ o = .next t := by
  unfold ifAlive at h
  split at h
  · rename_i ha
    exact ⟨ha, h⟩
  · cases h

theorem ifAlive_of_alive (h : s.alive = true) : ifAlive s o = o := by simp [ifAlive, h]

theorem ifAlive_of_dead (h : s.alive = false) : ifAlive s o = .refused .notAlive := by simp [ifAlive, h]

/-- What BEGIN can do (41_connection_ops.md R102). -/
theorem beginConnection_next (h : beginConnection s = .next t) :
    (s.initialized = true ∧ t = s) ∨
      (s.initialized = false ∧ (s.cfg.backend = .hardware → s.divisorTooWide = false) ∧
        t = { s.bringUp with initialized := true }) := by
  unfold beginConnection at h
  split at h
  · rename_i hi
    cases h
    exact .inl ⟨hi, rfl⟩
  · rename_i hi
    split at h
    · cases h
    · rename_i hw
      cases h
      refine .inr ⟨by simpa using hi, ?_, rfl⟩
      intro hb
      simpa [hb] using hw

/-- The drawn flag decides what the phases 10 and 12 do; the other phases do one thing each (R117). -/
theorem phase_next (h : phase s = .next t) :
    (s.seq = .idle ∧ t = s) ∨
    (s.seq = .bRelease ∧ t = s.pmxRelease.goto .bAssign) ∨
    (s.seq = .bAssign ∧ t = s.pmxAssign.goto .bClock) ∨
    (s.seq = .bClock ∧ t = s.clkEnable.goto .bDisable) ∨
    (s.seq = .bDisable ∧ t = s.txrxDisable.goto .bBaud) ∨
    (s.seq = .bBaud ∧ s.divisorTooWide = false ∧ t = s.brgWrite.goto .bMode) ∨
    (s.seq = .bMode ∧ t = s.modeWrite.goto .bImask) ∨
    (s.seq = .bImask ∧ t = s.intMaskAll.goto .bEnable) ∨
    (s.seq = .bEnable ∧ t = s.txrxEnable.goto .bDone) ∨
    (s.seq = .bDone ∧ t = { s with initialized := true }.finish rspNone) ∨
    (s.seq = .sPoll ∧ s.drawnFlag = false ∧ t = s.srReadTx.goto .sPoll) ∨
    (s.seq = .sPoll ∧ s.drawnFlag = true ∧ t = s.srReadTx.goto .sWrite) ∨
    (s.seq = .sWrite ∧ t = (s.thrWrite s.txByte).finish (rspBool true)) ∨
    (s.seq = .aPoll ∧ s.drawnFlag = false ∧ t = s.srReadRx.finish (rspCount s.rx.count)) ∨
    (s.seq = .aPoll ∧ s.drawnFlag = true ∧ t = s.srReadRx.goto .aRead) ∨
    (s.seq = .aRead ∧
      t = (s.rhrRead.stage s.env.value).finish (rspCount (s.rx.push s.cfg.nRx s.env.value).count)) := by
  unfold phase at h
  split at h
  all_goals rename_i hs
  all_goals simp only [hs, reduceCtorEq, false_and, true_and, false_or, or_false]
  case h_6 =>
    split at h
    · cases h
    · rename_i hd
      cases h
      exact ⟨by simpa using hd, rfl⟩
  case h_11 =>
    cases h
    cases hf : s.drawnFlag
    · exact .inl ⟨rfl, rfl⟩
    · exact .inr ⟨rfl, rfl⟩
  case h_13 =>
    cases h
    cases hf : s.drawnFlag
    · exact .inl ⟨rfl, rfl⟩
    · exact .inr ⟨rfl, rfl⟩
  all_goals
    cases h
    rfl

/-- What a FIFO reset can do (70_reset_and_hazards.md R191). -/
theorem fifoConstruct_next (h : fifoConstruct s = .next t) :
    s.cfg.n ≠ 0 ∧ t = { s with fifo := Fifo.fresh, fifoRsp := none, fifoLog := [] } := by
  unfold fifoConstruct at h
  split at h
  · cases h
  · rename_i hn
    cases h
    exact ⟨hn, rfl⟩

/-- What a construction can do (70_reset_and_hazards.md R192, R193). -/
theorem construct_next {straps : Straps} (h : construct straps s = .next t) :
    straps.baud ≠ 0#32 ∧ s.cfg.nRx ≠ 0 ∧ ∃ c, ctrlOfCode straps.ctrl = some c ∧ c ∉ s.othersLive ∧
      ((straps.eager = true ∧ beginConnection (s.freshConnection straps.baud c) = .next t) ∨
        (straps.eager = false ∧ t = s.freshConnection straps.baud c)) := by
  unfold construct at h
  split at h
  · cases h
  · rename_i hb
    split at h
    · cases h
    · rename_i c hc
      split at h
      · cases h
      · rename_i ho
        split at h
        · cases h
        · rename_i hn
          split at h
          · rename_i he
            exact ⟨hb, hn, c, hc, ho, .inl ⟨he, h⟩⟩
          · rename_i he
            cases h
            exact ⟨hb, hn, c, hc, ho, .inr ⟨by simpa using he, rfl⟩⟩

/-- What the host's expansion of a pseudo-instruction can do (41_connection_ops.md R110 to R114). -/
theorem runPseudo_next {p : Pseudo} (h : runPseudo p s = .next t) :
    s.alive = true ∧ ∃ commands, expand s.initialized p = .ok commands ∧
      t = s.pending (commands ++ s.inputs) := by
  obtain ⟨ha, h⟩ := ifAlive_next h
  refine ⟨ha, ?_⟩
  split at h
  · cases h
  · rename_i commands hc
    cases h
    exact ⟨commands, hc, rfl⟩

/-- What a word on a port can do: it is refused or its instruction runs. -/
theorem takeWord_take {p : Port} {word : Nat} {i : Instr} (h : takeWord p word s = .take i t) :
    decode s.cfg.w p word = .ok i ∧ t = s := by
  unfold takeWord at h
  split at h
  · cases h
  · rename_i j hj
    cases h
    exact ⟨hj, rfl⟩

theorem takeWord_done {p : Port} {word : Nat} (h : takeWord p word s = .done o) :
    o = .refused .reservedEncoding := by
  unfold takeWord at h
  split at h
  · cases h
    rfl
  · cases h

/-! What is held and what is due (30_encoding.md R60). -/

/-- What is left after the inputs that wait begins, if at all, with one that does not. -/
theorem dropWhile_waits_head {l rest : List Input} {x : Input} (h : l.dropWhile Input.waits = x :: rest) :
    x.waits = false := by
  induction l with
  | nil => cases h
  | cons y ys ih =>
    cases hy : y.waits with
    | true => exact ih (by simpa [hy] using h)
    | false =>
      simp only [List.dropWhile, hy, List.cons.injEq] at h
      rw [← h.1]
      exact hy

theorem dropWhile_waits_nil {l : List Input} (h : ∀ x, x ∈ l → x.waits = true) : l.dropWhile Input.waits = [] := by
  induction l with
  | nil => rfl
  | cons y ys ih =>
    simp only [List.dropWhile, h y (by simp)]
    exact ih (fun x hx => h x (by simp [hx]))

theorem State.held_append_due (s : State) : s.held ++ s.due = s.inputs := by
  unfold State.held State.due
  split
  · rfl
  · exact List.takeWhile_append_dropWhile

@[simp] theorem State.held_of_idle (h : s.seq = .idle) : s.held = [] := by simp [State.held, State.cmdReady, h]

@[simp] theorem State.due_of_idle (h : s.seq = .idle) : s.due = s.inputs := by simp [State.due, State.cmdReady, h]

/-- A step over an input that waits for nothing stands at the front of what is due, in every phase. -/
theorem State.due_of_head {x : Input} {rest : List Input} (h : s.inputs = x :: rest) (hx : x.waits = false) :
    s.due = x :: rest ∧ s.held = [] := by
  unfold State.held State.due
  split
  · exact ⟨h, rfl⟩
  · simp [h, hx]

/-- While a command is in flight, inputs that all wait are all held. -/
theorem State.due_of_waits (hs : s.seq ≠ .idle) (h : ∀ x, x ∈ s.inputs → x.waits = true) :
    s.due = [] ∧ s.held = s.inputs := by
  have hd : s.due = [] := by simp [State.due, State.cmdReady, hs, dropWhile_waits_nil h]
  have := s.held_append_due
  rw [hd, List.append_nil] at this
  exact ⟨hd, this⟩

/-- While a command is in flight, what comes after the inputs that wait is due. -/
theorem State.due_of_append {held rest : List Input} {x : Input} (hs : s.seq ≠ .idle)
    (hin : s.inputs = held ++ x :: rest) (hh : ∀ y, y ∈ held → y.waits = true) (hx : x.waits = false) :
    s.due = x :: rest ∧ s.held = held := by
  have hd : s.due = x :: rest := by
    simp only [State.due, State.cmdReady, hs, decide_false, Bool.false_eq_true, if_false, hin]
    rw [List.dropWhile_append_of_pos hh]
    simp [hx]
  have := s.held_append_due
  rw [hd, hin] at this
  exact ⟨hd, List.append_cancel_right this⟩

/-- What is due first while a command is in flight waits for nothing. -/
theorem State.due_ready {x : Input} {rest : List Input} (h : s.due = x :: rest) (hx : x.waits = true) :
    s.seq = .idle := by
  unfold State.due State.cmdReady at h
  split at h
  · rename_i hs
    exact of_decide_eq_true hs
  · rw [dropWhile_waits_head h] at hx
    cases hx

theorem step_nothing_due (h : s.due = []) : step s = phase s.quiet := by simp [step, nextAction, h]

theorem step_due {x : Input} {rest : List Input} (h : s.due = x :: rest) :
    step s = match onInput x s.held rest s.quiet with
      | .done o => o
      | .take i t => exec i t := by
  have hn : nextAction s = onInput x s.held rest s.quiet := by simp only [nextAction, h]
  exact congrArg (fun a : Action => match a with
    | .done o => o
    | .take i t => exec i t) hn

/-- What a step can do: a phase of the command in flight, a command on the FIFO's port, a command on an idle
sequencer's port, a reset, a pseudo-instruction, or the host noting a result. -/
theorem step_next (h : step s = .next t) :
    (phase s.quiet = .next t ∧ s.due = []) ∨
    (∃ rest, s.due = .idle :: rest ∧ phase (s.quiet.pending (s.held ++ rest)) = .next t) ∨
    (∃ word rest i, s.due = .fifoCmd word :: rest ∧ decode s.cfg.w .fifo word = .ok i ∧
      exec i (s.quiet.pending (s.held ++ rest)) = .next t) ∨
    (∃ word rest i, s.due = .seqCmd word :: rest ∧ s.seq = .idle ∧ decode s.cfg.w .seq word = .ok i ∧
      exec i (s.quiet.pending rest) = .next t) ∨
    (∃ rest, s.due = .fifoReset :: rest ∧ fifoConstruct (s.quiet.pending (s.held ++ rest)) = .next t) ∨
    (∃ straps rest, s.due = .seqReset straps :: rest ∧
      construct straps (s.quiet.pending rest) = .next t) ∨
    (∃ p rest, s.due = .pseudo p :: rest ∧ s.seq = .idle ∧
      runPseudo p (s.quiet.pending rest) = .next t) ∨
    (∃ r rest, s.due = .hostResult r :: rest ∧ s.seq = .idle ∧
      noteResult r (s.quiet.pending rest) = .next t) := by
  cases hin : s.due with
  | nil => exact .inl ⟨step_nothing_due hin ▸ h, rfl⟩
  | cons x rest =>
    rw [step_due hin] at h
    cases x with
    | idle => exact .inr (.inl ⟨rest, rfl, h⟩)
    | fifoCmd word =>
      simp only [onInput] at h
      cases ha : takeWord .fifo word (s.quiet.pending (s.held ++ rest)) with
      | done o =>
        rw [ha, takeWord_done ha] at h
        cases h
      | take i u =>
        rw [ha] at h
        obtain ⟨hd, rfl⟩ := takeWord_take ha
        exact .inr (.inr (.inl ⟨word, rest, i, rfl, hd, h⟩))
    | seqCmd word =>
      have hs := State.due_ready hin rfl
      simp only [onInput, State.held_of_idle hs, List.nil_append] at h
      cases ha : takeWord .seq word (s.quiet.pending rest) with
      | done o =>
        rw [ha, takeWord_done ha] at h
        cases h
      | take i u =>
        rw [ha] at h
        obtain ⟨hd, rfl⟩ := takeWord_take ha
        exact .inr (.inr (.inr (.inl ⟨word, rest, i, rfl, hs, hd, h⟩)))
    | fifoReset => exact .inr (.inr (.inr (.inr (.inl ⟨rest, rfl, h⟩))))
    | seqReset straps => exact .inr (.inr (.inr (.inr (.inr (.inl ⟨straps, rest, rfl, h⟩)))))
    | pseudo p =>
      have hs := State.due_ready hin rfl
      simp only [onInput, State.held_of_idle hs, List.nil_append] at h
      exact .inr (.inr (.inr (.inr (.inr (.inr (.inl ⟨p, rest, rfl, hs, h⟩))))))
    | hostResult r =>
      have hs := State.due_ready hin rfl
      simp only [onInput, State.held_of_idle hs, List.nil_append] at h
      exact .inr (.inr (.inr (.inr (.inr (.inr (.inr ⟨r, rest, rfl, hs, h⟩))))))

end Sys2Proof.Machine
end

