-- ==== Sys2Proof/Laws/Backend.lean ====
section
/-! SUPPORT. What the backend primitives and the commands built on them can do, said once (spec/42_backend_primitives.md
R131 to R146; spec/41_connection_ops.md R102 to R109). -/

namespace Sys2Proof.Machine

/-! The registers of one identity (10_state.md R25). -/

@[simp] theorem PeriphBank.get_set (b : PeriphBank) (c : CtrlId) (r : PeriphRegs) : (b.set c r).get c = r := by
  cases c
  · rfl
  · rfl
  · rfl

theorem PeriphBank.get_set_other (b : PeriphBank) (c d : CtrlId) (r : PeriphRegs) (h : d ≠ c) :
    (b.set c r).get d = b.get d := by
  cases c <;> cases d <;> first | rfl | exact absurd rfl h

@[simp] theorem PeriphBank.set_set (b : PeriphBank) (c : CtrlId) (r r' : PeriphRegs) :
    (b.set c r).set c r' = b.set c r' := by
  cases c
  · rfl
  · rfl
  · rfl

/-- The eight events of the bring-up (42_backend_primitives.md R131). -/
def bringUpEvents (alt c : CtrlId) (div : Nat) : List Event :=
  [ ⟨.write, c, .pmxOwn, .owner (pinsOf c) .peripheral⟩,
    ⟨.write, c, .pmxFn, .function (pinsOf c) (muxFnOf alt c)⟩,
    ⟨.write, c, .clkEn, .clock true⟩,
    ⟨.write, c, .cr, .enables false false⟩,
    ⟨.write, c, .brg, .divisor div⟩,
    ⟨.write, c, .mr, .frame frame8N1⟩,
    ⟨.write, c, .imr, .intMask true⟩,
    ⟨.write, c, .cr, .enables true true⟩ ]

/-- What the registers hold after the bring-up; `THR` is not written. -/
def bringUpRegs (alt c : CtrlId) (div : Nat) (r : PeriphRegs) : PeriphRegs where
  pmxOwnRx := .peripheral
  pmxOwnTx := .peripheral
  pmxFnRx := muxFnOf alt c
  pmxFnTx := muxFnOf alt c
  clkEn := true
  txen := true
  rxen := true
  brg := div
  mr := frame8N1
  imrAllMasked := true
  thr := r.thr

/-- The bring-up on hardware changes the history and this identity's registers, and nothing else. -/
theorem State.bringUp_hardware (s : State) (h : s.cfg.backend = .hardware) :
    s.bringUp = { s with
      events := s.events ++ bringUpEvents s.cfg.altCtrl s.ctrl s.divisor
      periph := s.periph.set s.ctrl
        (bringUpRegs s.cfg.altCtrl s.ctrl s.divisor (s.periph.get s.ctrl)) } := by
  simp [State.bringUp, h, State.pmxRelease, State.pmxAssign, State.clkEnable, State.txrxDisable, State.txrxEnable,
    State.brgWrite, State.modeWrite, State.intMaskAll, State.periphWrite, regOf, storeReg, State.divisor,
    bringUpEvents, bringUpRegs]

/-- The bring-up on the mock does nothing. -/
theorem State.bringUp_mock (s : State) (h : s.cfg.backend = .mock) : s.bringUp = s := by simp [State.bringUp, h]

/-- Every event of the bring-up names the connection's identity and none hands a byte to `THR`. -/
theorem bringUpEvents_own {alt c : CtrlId} {div : Nat} {e : Event} (h : e ∈ bringUpEvents alt c div) :
    e.c = c ∧ ∀ b, e.value ≠ .txchr b := by
  simp only [bringUpEvents, List.mem_cons, List.not_mem_nil, or_false] at h
  rcases h with rfl | rfl | rfl | rfl | rfl | rfl | rfl | rfl <;> exact ⟨rfl, fun b hb => by cases hb⟩

/-- What AVAILABLE does on an initialized connection: one of a failed poll, a byte staged after a successful one, or
the sentinel (R103). -/
theorem pullByte_cases (s : State) :
    (s.cfg.backend = .hardware ∧ s.drawnFlag = false ∧ pullByte s = s.srReadRx) ∨
    (s.cfg.backend = .hardware ∧ s.drawnFlag = true ∧
      pullByte s = s.srReadRx.rhrRead.stage s.env.next.value) ∨
    (s.cfg.backend = .mock ∧ pullByte s = s.stage Config.mockSentinel) := by
  unfold pullByte State.receiverReady State.receiverPolled State.byteReceived State.receivedByte
  cases hb : s.cfg.backend with
  | hardware =>
    cases hf : s.drawnFlag with
    | false => exact .inl ⟨rfl, rfl, by simp⟩
    | true => exact .inr (.inl ⟨rfl, rfl, by simp [State.srReadRx, hb, State.rhrRead, State.stage]⟩)
  | mock => exact .inr (.inr ⟨rfl, by simp [hb, State.stage]⟩)

/-- What SEND does on an initialized connection: it stays in S_POLL, or writes the byte, or drops it (R104). -/
theorem sendOrSpin_cases (b : Byte) (s : State) :
    (s.cfg.backend = .hardware ∧ s.drawnFlag = false ∧
      sendOrSpin b s = { s.srReadTx with seq := .sPoll, txByte := b, seqRsp := none }) ∨
    (s.cfg.backend = .hardware ∧ s.drawnFlag = true ∧
      sendOrSpin b s = (s.srReadTx.thrWrite b).respondSeq (rspBool true)) ∨
    (s.cfg.backend = .mock ∧ sendOrSpin b s = s.respondSeq (rspBool true)) := by
  unfold sendOrSpin State.transmitterReady State.sendTurn
  cases hb : s.cfg.backend with
  | hardware =>
    cases hf : s.drawnFlag with
    | false => exact .inl ⟨rfl, rfl, by simp⟩
    | true => exact .inr (.inl ⟨rfl, rfl, by simp⟩)
  | mock => exact .inr (.inr ⟨rfl, by simp⟩)

theorem enableTransport_cases (s : State) :
    (s.cfg.backend = .hardware ∧ s.enableTransport = s.txrxEnable) ∨
      (s.cfg.backend = .mock ∧ s.enableTransport = s) := by
  unfold State.enableTransport
  cases s.cfg.backend
  · exact .inl ⟨rfl, rfl⟩
  · exact .inr ⟨rfl, rfl⟩

theorem disableTransport_cases (s : State) :
    (s.cfg.backend = .hardware ∧ s.disableTransport = s.txrxDisable) ∨
      (s.cfg.backend = .mock ∧ s.disableTransport = s) := by
  unfold State.disableTransport
  cases s.cfg.backend
  · exact .inl ⟨rfl, rfl⟩
  · exact .inr ⟨rfl, rfl⟩

/-- What a command can do when it answers a next state: a FIFO command updates the FIFO block and responds; a
sequencer command, on a live connection, does what its rule says and responds or stays in flight. -/
theorem exec_next {i : Instr} {s t : State} (h : exec i s = .next t) :
    (i.port = .fifo ∧ ∃ f v, t = { s with fifo := f }.respondFifo v) ∨
    (s.alive = true ∧
      ((i = .begin ∧ ∃ u, beginConnection s = .next u ∧ t = u.respondSeq rspNone) ∨
      (s.initialized = false ∧ (i = .available ∨ i = .receive ∨ ∃ b, i = .send b) ∧ t = s.respondSeq 0) ∨
      (i = .available ∧ s.initialized = true ∧ t = (pullByte s).respondSeq (rspCount (pullByte s).rx.count)) ∨
      (s.initialized = true ∧ ∃ b, i = .send b ∧ t = sendOrSpin b s) ∨
      (i = .receive ∧ s.initialized = true ∧
        t = { s with rx := s.rx.drop s.cfg.nRx }.respondSeq (rspByte s.rxHead)) ∨
      (i = .isinit ∧ t = s.respondSeq (rspBool s.initialized)) ∨
      (i = .enable ∧ t = s.enableTransport.respondSeq rspNone) ∨
      (i = .disable ∧ t = s.disableTransport.respondSeq rspNone) ∨
      (i = .destroy ∧ t = { s.disableTransport with alive := false }.respondSeq rspNone))) := by
  cases i with
  | push _ | pop | peek | clear | count =>
    cases h
    exact .inl ⟨rfl, _, _, rfl⟩
  | begin =>
    obtain ⟨ha, h⟩ := ifAlive_next h
    obtain ⟨u, hu, rfl⟩ := onNext_next h
    exact .inr ⟨ha, .inl ⟨rfl, u, hu, rfl⟩⟩
  | available =>
    obtain ⟨ha, h⟩ := ifAlive_next h
    cases h
    cases hi : s.initialized with
    | false => simp [ha, rspCount]
    | true => simp [ha]
  | send b =>
    obtain ⟨ha, h⟩ := ifAlive_next h
    cases h
    cases hi : s.initialized with
    | false => simp [ha, rspBool]
    | true => simp [ha]
  | receive =>
    obtain ⟨ha, h⟩ := ifAlive_next h
    cases h
    cases hi : s.initialized with
    | false => simp [ha, rspByte, Config.rxDefault]
    | true => simp [ha]
  | isinit | enable | disable | destroy =>
    obtain ⟨ha, h⟩ := ifAlive_next h
    cases h
    simp [ha]

end Sys2Proof.Machine
end

