-- ==== Sys2Proof/Laws/Slots.lean ====
section
/-! SUPPORT. The laws of the slot space (spec/20_memory.md R41): a read after a write of the same slot gives the value
written, a write leaves every other slot alone, and every operation keeps the canonical form. -/

namespace Sys2Proof.Machine

variable {α : Type}

@[simp] theorem slotFind_slotStore_same (l : List (Nat × α)) (i : Nat) (v : α) :
    slotFind (slotStore l i v) i = some v := by
  induction l with
  | nil => simp [slotStore, slotFind]
  | cons c rest ih =>
    obtain ⟨j, u⟩ := c
    simp only [slotStore]
    split
    · simp [slotFind]
    · split
      · simp [slotFind]
      · rename_i h
        simp [slotFind, h, ih]

theorem slotFind_slotStore_other (l : List (Nat × α)) (i k : Nat) (v : α) (h : k ≠ i) :
    slotFind (slotStore l i v) k = slotFind l k := by
  induction l with
  | nil => simp [slotStore, slotFind, h]
  | cons c rest ih =>
    obtain ⟨j, u⟩ := c
    simp only [slotStore]
    split
    · simp [slotFind, h]
    · split
      · rename_i hij
        subst hij
        simp [slotFind, h]
      · simp [slotFind, ih]

/-- The canonical form gives way to a lower bound. -/
theorem slotsRiseAbove_none {low : Nat} {l : List (Nat × α)} (h : slotsRiseAbove (some low) l = true) :
    slotsRiseAbove none l = true := by
  cases l with
  | nil => rfl
  | cons c rest =>
    simp only [slotsRiseAbove, Bool.and_eq_true] at h ⊢
    exact h.2

theorem slotsRiseAbove_store_some (l : List (Nat × α)) (low i : Nat) (v : α) (hi : low < i)
    (h : slotsRiseAbove (some low) l = true) : slotsRiseAbove (some low) (slotStore l i v) = true := by
  induction l generalizing low with
  | nil => simp [slotStore, slotsRiseAbove, hi]
  | cons c rest ih =>
    obtain ⟨j, u⟩ := c
    simp only [slotsRiseAbove, Bool.and_eq_true, decide_eq_true_eq] at h
    simp only [slotStore]
    split
    · rename_i hij
      simp [slotsRiseAbove, hi, hij, h.2]
    · split
      · rename_i hij
        subst hij
        simp [slotsRiseAbove, hi, h.2]
      · simp only [slotsRiseAbove, Bool.and_eq_true, decide_eq_true_eq]
        exact ⟨h.1, ih j (by omega) h.2⟩

/-- Storing keeps the canonical form. -/
theorem slotsRiseAbove_store (l : List (Nat × α)) (i : Nat) (v : α) (h : slotsRiseAbove none l = true) :
    slotsRiseAbove none (slotStore l i v) = true := by
  cases l with
  | nil => rfl
  | cons c rest =>
    obtain ⟨j, u⟩ := c
    simp only [slotsRiseAbove] at h
    simp only [slotStore]
    split
    · rename_i hij
      simp [slotsRiseAbove, hij, h]
    · split
      · rename_i hij
        subst hij
        simpa [slotsRiseAbove] using h
      · simp only [slotsRiseAbove]
        exact slotsRiseAbove_store_some rest j i v (by omega) h

theorem Fifo.slotWrite_wf (f : Fifo α) (i : Nat) (v : α) (h : f.wf = true) : (f.slotWrite i v).wf = true :=
  slotsRiseAbove_store f.slots i v h

theorem Fifo.push_wf (n : Nat) (v : α) (f : Fifo α) (h : f.wf = true) : (f.push n v).wf = true := by
  unfold Fifo.push
  split
  · exact h
  · exact Fifo.slotWrite_wf f f.wr v h

theorem Fifo.drop_wf (n : Nat) (f : Fifo α) (h : f.wf = true) : (f.drop n).wf = true := by
  unfold Fifo.drop
  split
  · exact h
  · exact h

theorem Fifo.cleared_wf (f : Fifo α) (h : f.wf = true) : f.cleared.wf = true := h

theorem Fifo.fresh_wf : (Fifo.fresh : Fifo α).wf = true := rfl

/-- The slot spaces of the reset state have the canonical form. -/
theorem State.reset_slots_wf : State.reset.fifo.wf = true ∧ State.reset.rx.wf = true := ⟨rfl, rfl⟩

end Sys2Proof.Machine
end

