-- ==== Sys2Proof/Laws/Fifo.lean ====
section
/-! SUPPORT. What each FIFO operation can do, said once (spec/40_fifo_ops.md R81 to R84). -/

namespace Sys2Proof.Machine

variable {α : Type} (n : Nat) (v : α) (f : Fifo α)

/-- PUSH on a full FIFO leaves it (R81). -/
theorem Fifo.push_full (h : f.count = n) : f.push n v = f := by simp [Fifo.push, h]

/-- PUSH on a FIFO with room writes slot `wr` and moves `wr` and `count` (R81). -/
theorem Fifo.push_room (h : f.count ≠ n) :
    f.push n v =
      { slots := slotStore f.slots f.wr v, rd := f.rd, wr := advance n f.wr, count := f.count + 1 } := by
  simp [Fifo.push, h, Fifo.slotWrite]

@[simp] theorem Fifo.push_rd : (f.push n v).rd = f.rd := by
  unfold Fifo.push
  split
  · rfl
  · rfl

theorem Fifo.push_count : (f.push n v).count = if f.count = n then f.count else f.count + 1 := by
  unfold Fifo.push
  split
  · rfl
  · rfl

/-- The slot a PUSH with room stores into. -/
theorem Fifo.push_stored_wr (h : f.count ≠ n) : (f.push n v).stored f.wr = some v := by
  rw [Fifo.push_room n v f h]
  exact slotFind_slotStore_same f.slots f.wr v

/-- PUSH leaves every slot but `wr`. -/
theorem Fifo.push_stored_other (i : Nat) (h : i ≠ f.wr) : (f.push n v).stored i = f.stored i := by
  unfold Fifo.push
  split
  · rfl
  · exact slotFind_slotStore_other f.slots f.wr i v h

/-- POP on an empty FIFO leaves it (R82). -/
theorem Fifo.drop_empty (h : f.count = 0) : f.drop n = f := by simp [Fifo.drop, h]

/-- POP on a non-empty FIFO moves `rd` and `count` (R82). -/
theorem Fifo.drop_some (h : f.count ≠ 0) :
    f.drop n = { f with rd := advance n f.rd, count := f.count - 1 } := by
  simp [Fifo.drop, h]

@[simp] theorem Fifo.drop_slots : (f.drop n).slots = f.slots := by
  unfold Fifo.drop
  split
  · rfl
  · rfl

@[simp] theorem Fifo.drop_stored (i : Nat) : (f.drop n).stored i = f.stored i := by
  simp [Fifo.stored]

@[simp] theorem Fifo.drop_wr : (f.drop n).wr = f.wr := by
  unfold Fifo.drop
  split
  · rfl
  · rfl

theorem Fifo.drop_count : (f.drop n).count = f.count - 1 := by
  unfold Fifo.drop
  split
  · omega
  · rfl

theorem Fifo.head_empty (d : α) (free : Nat → α) (h : f.count = 0) : f.head d free = d := by
  simp [Fifo.head, h]

theorem Fifo.head_some (d : α) (free : Nat → α) (h : f.count ≠ 0) : f.head d free = f.slotRead free f.rd := by
  simp [Fifo.head, h]

/-- A slot that has been stored into reads as what was stored (spec/20_memory.md R41). -/
theorem Fifo.slotRead_of_stored (free : Nat → α) (i : Nat) (h : f.stored i = some v) : f.slotRead free i = v := by
  simp [Fifo.slotRead, h]

@[simp] theorem Fifo.cleared_stored (i : Nat) : f.cleared.stored i = f.stored i := rfl

@[simp] theorem Fifo.cleared_count : f.cleared.count = 0 := rfl

@[simp] theorem Fifo.cleared_rd : f.cleared.rd = f.wr := rfl

@[simp] theorem Fifo.cleared_wr : f.cleared.wr = f.wr := rfl

@[simp] theorem Fifo.fresh_stored (i : Nat) : (Fifo.fresh : Fifo α).stored i = none := rfl

/-- The two flag outputs say what `count` says (spec/10_state.md R16). -/
theorem Fifo.empty_iff : f.empty = true ↔ f.count = 0 := by simp [Fifo.empty]

theorem Fifo.full_iff : f.full n = true ↔ f.count = n := by simp [Fifo.full]

/-- Advancing an index below the capacity stays below it (R88). -/
theorem advance_lt (i : Nat) (h : i < n) : advance n i < n := Nat.mod_lt _ (by omega)

/-- "equals `i + 1` when `i < N - 1` and `0` when `i = N - 1`" (R88). -/
theorem advance_eq (i : Nat) (h : i < n) : advance n i = if i + 1 = n then 0 else i + 1 := by
  unfold advance
  split
  · rename_i h1
    rw [h1, Nat.mod_self]
  · exact Nat.mod_eq_of_lt (by omega)

end Sys2Proof.Machine
end

