-- ==== Sys2Proof/Laws/FifoInv.lean ====
section
/-! SUPPORT. Every FIFO operation keeps the FIFO's invariant (spec/10_state.md R15), and a fresh FIFO has it. -/

namespace Sys2Proof.Machine

variable {α : Type} {n : Nat} {fits : α → Prop} {f : Fifo α}

theorem FifoInv.pos (h : FifoInv n fits f) : 0 < n := Nat.lt_of_le_of_lt (Nat.zero_le _) h.rd

theorem FifoInv.fresh (hn : 0 < n) : FifoInv n fits (Fifo.fresh : Fifo α) where
  wf := rfl
  slots := by
    intro i v h
    simp at h
  rd := hn
  wr := hn
  count := Nat.zero_le n
  link := by simp [Fifo.fresh]
  window := by
    intro k hk
    exact absurd hk (Nat.not_lt_zero k)

/-- The write index of a FIFO with room names no buffered slot. -/
theorem FifoInv.window_ne_wr (h : FifoInv n fits f) {k : Nat} (hk : k < f.count) (hroom : f.count ≠ n) :
    (f.rd + k) % n ≠ f.wr := by
  have hrd := h.rd
  have hc := h.count
  rw [h.link]
  intro he
  rcases Nat.lt_or_ge (f.rd + k) n with h1 | h1
  · rw [Nat.mod_eq_of_lt h1] at he
    rcases Nat.lt_or_ge (f.rd + f.count) n with h2 | h2
    · rw [Nat.mod_eq_of_lt h2] at he
      omega
    · rw [Nat.mod_eq_sub_mod h2, Nat.mod_eq_of_lt (by omega)] at he
      omega
  · rw [Nat.mod_eq_sub_mod h1, Nat.mod_eq_of_lt (by omega)] at he
    rw [Nat.mod_eq_sub_mod (by omega), Nat.mod_eq_of_lt (by omega)] at he
    omega

theorem FifoInv.push (h : FifoInv n fits f) (v : α) (hv : fits v) : FifoInv n fits (f.push n v) := by
  by_cases hfull : f.count = n
  · rw [Fifo.push_full n v f hfull]
    exact h
  · have hroom := Fifo.push_room n v f hfull
    refine ⟨Fifo.push_wf n v f h.wf, ?_, ?_, ?_, ?_, ?_, ?_⟩
    · intro i u hi
      by_cases hw : i = f.wr
      · subst hw
        rw [Fifo.push_stored_wr n v f hfull] at hi
        cases hi
        exact ⟨h.wr, hv⟩
      · rw [Fifo.push_stored_other n v f i hw] at hi
        exact h.slots i u hi
    · simpa using h.rd
    · rw [hroom]
      exact advance_lt n f.wr h.wr
    · rw [hroom]
      have := h.count
      show f.count + 1 ≤ n
      omega
    · rw [hroom]
      show (f.wr + 1) % n = (f.rd + (f.count + 1)) % n
      rw [h.link, Nat.mod_add_mod, Nat.add_assoc]
    · intro k hk
      rw [Fifo.push_rd]
      have hk' : k < f.count + 1 := by
        rw [hroom] at hk
        exact hk
      rcases Nat.lt_or_ge k f.count with hlt | hge
      · rw [Fifo.push_stored_other n v f _ (h.window_ne_wr hlt hfull)]
        exact h.window k hlt
      · have hkc : k = f.count := by omega
        subst hkc
        rw [← h.link, Fifo.push_stored_wr n v f hfull]
        rfl

theorem FifoInv.drop (h : FifoInv n fits f) : FifoInv n fits (f.drop n) := by
  by_cases h0 : f.count = 0
  · rw [Fifo.drop_empty n f h0]
    exact h
  · have hd := Fifo.drop_some n f h0
    refine ⟨Fifo.drop_wf n f h.wf, ?_, ?_, ?_, ?_, ?_, ?_⟩
    · intro i v hi
      rw [Fifo.drop_stored] at hi
      exact h.slots i v hi
    · rw [hd]
      exact advance_lt n f.rd h.rd
    · simpa using h.wr
    · rw [Fifo.drop_count]
      have := h.count
      omega
    · rw [Fifo.drop_wr, hd, h.link]
      show (f.rd + f.count) % n = ((f.rd + 1) % n + (f.count - 1)) % n
      rw [Nat.mod_add_mod]
      congr 1
      omega
    · intro k hk
      rw [Fifo.drop_count] at hk
      rw [Fifo.drop_stored, hd]
      show (f.stored (((f.rd + 1) % n + k) % n)).isSome = true
      rw [Nat.mod_add_mod, Nat.add_assoc, Nat.add_comm 1 k]
      exact h.window (k + 1) (by omega)

theorem FifoInv.cleared (h : FifoInv n fits f) : FifoInv n fits f.cleared where
  wf := h.wf
  slots := h.slots
  rd := h.wr
  wr := h.wr
  count := Nat.zero_le n
  link := (Nat.mod_eq_of_lt h.wr).symm
  window := by
    intro k hk
    exact absurd hk (Nat.not_lt_zero k)

/-- Under the invariant the item a POP or PEEK returns fits, if the default does. -/
theorem FifoInv.head_fits (h : FifoInv n fits f) (d : α) (free : Nat → α) (hd : fits d) :
    fits (f.head d free) := by
  by_cases h0 : f.count = 0
  · rw [Fifo.head_empty f d free h0]
    exact hd
  · rw [Fifo.head_some f d free h0]
    have hw := h.window 0 (by omega)
    rw [Nat.add_zero, Nat.mod_eq_of_lt h.rd] at hw
    obtain ⟨v, hv⟩ := Option.isSome_iff_exists.mp hw
    rw [Fifo.slotRead_of_stored v f free f.rd hv]
    exact (h.slots f.rd v hv).2

end Sys2Proof.Machine
end

