-- ==== Sys2Proof/Laws/History.lean ====
section
/-! SUPPORT. What appending to the event history keeps (spec/10_state.md R34, R35; spec/20_memory.md R55): a history
stays polled when the new event needs no poll or stands right after the poll it needs. -/

namespace Sys2Proof.Machine

theorem polled_nil : Polled [] := by
  intro pre e post p h
  simp at h

theorem polled_snoc {h : List Event} {e : Event} (hp : Polled h)
    (he : ∀ p, pollBefore e = some p → h.getLast? = some p) : Polled (h ++ [e]) := by
  intro pre f post p heq hf
  rcases List.eq_nil_or_concat post with rfl | ⟨post', x, rfl⟩
  · obtain ⟨rfl, h2⟩ := List.append_inj' heq rfl
    cases h2
    exact he p hf
  · have h2 : h ++ [e] = (pre ++ f :: post') ++ [x] := by simpa using heq
    exact hp pre f post' p (List.append_inj' h2 rfl).1 hf

/-- Events that need no poll keep the history polled. -/
theorem polled_append {h l : List Event} (hp : Polled h) (hl : ∀ e, e ∈ l → pollBefore e = none) :
    Polled (h ++ l) := by
  induction l generalizing h with
  | nil => simpa using hp
  | cons x xs ih =>
    have hx : Polled (h ++ [x]) := polled_snoc hp (by
      intro p hp'
      rw [hl x (by simp)] at hp'
      cases hp')
    have := ih hx (fun e he => hl e (by simp [he]))
    simpa using this

end Sys2Proof.Machine
end

