-- ==== Sys2Proof/Laws/PerInstr.lean ====
section
/-! SUPPORT. What holds of each command as syntax: a well-formed command's word fits its port (spec/30_encoding.md R60
to R62). One lemma for each constructor. -/

namespace Sys2Proof.Laws.EncodeFits

/-- The word of the command fits the port it is presented on, for every item width. -/
def Statement (i : Instr) : Prop := ∀ w : Nat, i.wf w = true → encode w i < 2 ^ portWidth w i.port

/-- An F-format word below opcode 8 with an operand of `w` bits has `3 + w` bits. -/
theorem fifo_word {w op low : Nat} (ho : op < 8) (hl : low < 2 ^ w) : op * 2 ^ w + low < 2 ^ (w + 3) := by
  have h8 : 2 ^ (w + 3) = 8 * 2 ^ w := by rw [Nat.pow_add, Nat.mul_comm]
  have hm : (op + 1) * 2 ^ w ≤ 8 * 2 ^ w := Nat.mul_le_mul_right _ (by omega)
  rw [Nat.succ_mul] at hm
  omega

theorem push (item : Nat) : Statement (.push item) := fun _ h =>
  fifo_word (op := 1) (by decide) (of_decide_eq_true h)
theorem pop : Statement .pop := fun w _ => fifo_word (by decide) (Nat.two_pow_pos w)
theorem peek : Statement .peek := fun w _ => fifo_word (by decide) (Nat.two_pow_pos w)
theorem clear : Statement .clear := fun w _ => fifo_word (by decide) (Nat.two_pow_pos w)
theorem count : Statement .count := fun w _ => fifo_word (by decide) (Nat.two_pow_pos w)
theorem begin : Statement .begin := fun _ _ => (by decide : 1 * 2 ^ 8 + 0 < 2 ^ 12)
theorem available : Statement .available := fun _ _ => (by decide : 2 * 2 ^ 8 + 0 < 2 ^ 12)
theorem send (byte : Byte) : Statement (.send byte) := by
  intro _ _
  have h := byte.isLt
  show 3 * 2 ^ 8 + byte.toNat < 2 ^ 12
  omega
theorem receive : Statement .receive := fun _ _ => (by decide : 4 * 2 ^ 8 + 0 < 2 ^ 12)
theorem isinit : Statement .isinit := fun _ _ => (by decide : 5 * 2 ^ 8 + 0 < 2 ^ 12)
theorem enable : Statement .enable := fun _ _ => (by decide : 6 * 2 ^ 8 + 0 < 2 ^ 12)
theorem disable : Statement .disable := fun _ _ => (by decide : 7 * 2 ^ 8 + 0 < 2 ^ 12)
theorem destroy : Statement .destroy := fun _ _ => (by decide : 8 * 2 ^ 8 + 0 < 2 ^ 12)

end Sys2Proof.Laws.EncodeFits
end

