-- ==== Sys2Proof/Laws/Refusals.lean ====
section
/-! SUPPORT. What each shared operation is refused for, said once (spec/60_exceptions.md R176;
spec/41_connection_ops.md R109, R111; spec/42_backend_primitives.md R138). -/

namespace Sys2Proof.Machine

variable {s : State} {r : Refusal}

theorem refused_iff {a b : Refusal} : (.refused a : Host.Outcome State Fault Refusal) = .refused b ↔ b = a := by
  rw [Host.Outcome.refused.injEq]
  exact eq_comm

/-- A phase is refused only in B_BAUD, for a divisor too wide for `BRG` (42_backend_primitives.md R138). -/
theorem phase_refused : phase s = .refused r ↔
    r = .divisorTooWide ∧ s.seq = .bBaud ∧ 2 ^ s.cfg.brgW ≤ s.cfg.clkConst / s.baud.toNat := by
  unfold phase
  split <;> rename_i hs <;> simp only [hs, reduceCtorEq, false_and, and_false, true_and]
  by_cases h : 2 ^ s.cfg.brgW ≤ s.cfg.clkConst / s.baud.toNat <;>
    simp [State.divisorTooWide, State.divisor, h, refused_iff, -Host.Outcome.refused.injEq]

/-- BEGIN is refused only while uninitialized on hardware, for a divisor too wide for `BRG`. -/
theorem beginConnection_refused : beginConnection s = .refused r ↔
    r = .divisorTooWide ∧ s.initialized = false ∧ s.cfg.backend = .hardware ∧
      2 ^ s.cfg.brgW ≤ s.cfg.clkConst / s.baud.toNat := by
  unfold beginConnection
  cases s.initialized <;> by_cases hb : s.cfg.backend = .hardware <;>
    by_cases h : 2 ^ s.cfg.brgW ≤ s.cfg.clkConst / s.baud.toNat <;>
    simp [State.divisorTooWide, State.divisor, h, hb, refused_iff, -Host.Outcome.refused.injEq]

/-- A command is refused only on the sequencer's port: any on a destroyed connection (R109), and BEGIN for its
divisor. -/
theorem exec_refused {i : Instr} : exec i s = .refused r ↔ i.port = .seq ∧
    ((s.alive = false ∧ r = .notAlive) ∨
      (s.alive = true ∧ i = .begin ∧ beginConnection s = .refused r)) := by
  cases ha : s.alive <;> cases i <;>
    simp [exec, Instr.port, execPush, execPop, execPeek, execClear, execCount, execBegin, execAvailable, execSend,
      execReceive, execIsinit, execEnable, execDisable, execDestroy, ifAlive, ha, refused_iff,
      -Host.Outcome.refused.injEq]
  cases beginConnection s <;> simp [onNext]

/-- The code of an identity, or 3 for none (30_encoding.md R71). -/
theorem ctrlOfCode_cases (k : BitVec 2) :
    (k = 3#2 ∧ ctrlOfCode k = none ∧ ∀ c, k ≠ ctrlCode c) ∨
      ∃ c, k ≠ 3#2 ∧ ctrlOfCode k = some c ∧ ∀ d, k = ctrlCode d ↔ d = c := by
  have codes : ∀ k : BitVec 2, k = 0#2 ∨ k = 1#2 ∨ k = 2#2 ∨ k = 3#2 := by decide
  rcases codes k with rfl | rfl | rfl | rfl
  · exact .inr ⟨.first, by decide, rfl, fun d => by cases d <;> simp [ctrlCode]⟩
  · exact .inr ⟨.second, by decide, rfl, fun d => by cases d <;> simp [ctrlCode]⟩
  · exact .inr ⟨.third, by decide, rfl, fun d => by cases d <;> simp [ctrlCode]⟩
  · exact .inl ⟨rfl, rfl, fun d => by cases d <;> simp [ctrlCode]⟩

/-- What a construction is refused for (60_exceptions.md R176; log entries 15, 16). -/
theorem construct_refused {straps : Straps} : construct straps s = .refused r ↔
    (r = .badBaud ∧ straps.baud = 0#32) ∨
    (r = .badController ∧ straps.baud ≠ 0#32 ∧ straps.ctrl = 3#2) ∨
    (r = .sharedController ∧ straps.baud ≠ 0#32 ∧ ∃ c, straps.ctrl = ctrlCode c ∧ c ∈ s.othersLive) ∨
    (r = .badCapacity ∧ straps.baud ≠ 0#32 ∧
      ∃ c, straps.ctrl = ctrlCode c ∧ c ∉ s.othersLive ∧ s.cfg.nRx = 0) ∨
    (r = .divisorTooWide ∧ ∃ c, GoodStraps s straps c ∧ straps.eager = true ∧ s.cfg.backend = .hardware ∧
      2 ^ s.cfg.brgW ≤ s.cfg.clkConst / straps.baud.toNat) := by
  unfold construct GoodStraps
  by_cases hb : straps.baud = 0#32
  · simp [hb, refused_iff, -Host.Outcome.refused.injEq]
  rcases ctrlOfCode_cases straps.ctrl with ⟨h3, hn, hc⟩ | ⟨c, h3, hs, hu⟩
  · rw [h3] at hc
    simp [hb, h3, hc, show ctrlOfCode 3#2 = none from rfl, refused_iff, -Host.Outcome.refused.injEq]
  · simp only [hb, hs, if_false]
    by_cases ho : c ∈ s.othersLive
    · simp [hb, h3, hu, ho, refused_iff, -Host.Outcome.refused.injEq]
    by_cases hn : s.cfg.nRx = 0
    · simp [hb, h3, hu, ho, hn, refused_iff, -Host.Outcome.refused.injEq]
    cases he : straps.eager
    · simp [hb, h3, hu, ho, hn]
    · simp [hb, h3, hu, ho, hn, beginConnection_refused]
      simp [State.freshConnection]

/-- Text has no terminator exactly where none of its bytes is zero (41_connection_ops.md R111). -/
theorem beforeZero_eq_none {bytes : List Byte} : beforeZero bytes = none ↔ ∀ b ∈ bytes, b ≠ 0#8 := by
  induction bytes with
  | nil => simp [beforeZero]
  | cons b bs ih =>
    by_cases hb : b = 0#8
    · simp [beforeZero, hb]
    · simpa [beforeZero, hb] using ih

/-- What a pseudo-instruction is refused for (R109, R111). -/
theorem runPseudo_refused {p : Pseudo} : runPseudo p s = .refused r ↔
    (r = .notAlive ∧ s.alive = false) ∨
    (r = .noTerminator ∧ s.alive = true ∧
      ∃ bytes, (p = .sendz bytes ∨ p = .insText bytes) ∧ ∀ b ∈ bytes, b ≠ 0#8) := by
  cases ha : s.alive
  · simp [runPseudo, ifAlive, ha, refused_iff, -Host.Outcome.refused.injEq]
  · simp only [runPseudo, ifAlive, ha, if_true]
    cases p <;> simp [expand]
    all_goals
      rename_i bytes
      have hz := beforeZero_eq_none (bytes := bytes)
      cases h : beforeZero bytes <;> rw [h] at hz
      · simp only [refused_iff, iff_self_and]
        exact fun _ => by simpa using hz
      · simp at hz
        simpa using fun _ => hz

end Sys2Proof.Machine
end

