-- ==== Sys2Proof/Tests/Slice0.lean ====
section
/-! SUPPORT. Tests: what WellFormed refuses, words written out from the spec's encodings, one-step vectors of
spec/95_test_vectors.md, and for every obligation with hypotheses a concrete state that meets them together. -/

namespace Sys2Proof.Tests

open Sys2Proof Sys2Proof.Machine

/-! ### Small states -/

/-- Parameters: `W = 8`, `N = 4`, `N_RX = 4`, `CLK_CONST = 1843200`, `BRG_W = 16`. -/
def params (b : Backend) : Params :=
  { w := 8, n := 4, dflt := 0, backend := b, nRx := 4, clkConst := 1843200, brgW := 16, altCtrl := .second }

/-- Peripheral registers before any write. -/
def coldRegs : PeriphRegs :=
  { pmxOwnRx := .gpio, pmxOwnTx := .gpio, pmxFnRx := .main, pmxFnTx := .main, clkEn := false, txen := false,
    rxen := false, brg := 0, mr := ⟨8, .none, .normal, .plainDefault⟩, imrAllMasked := false, thr := 0 }

/-- A live connection on FIRST at 9600 baud with an empty bare FIFO; the draws are `script`. -/
def conn (b : Backend) (initialized : Bool) (script : List Byte) : State :=
  { cfg := params b, fifo := Fifo.fresh, fifoRsp := none, fifoLog := [], initialized := initialized,
    baud := 9600#32, ctrl := .first, rx := Fifo.fresh, seq := .idle, alive := true, txByte := 0#8, events := [],
    seqRsp := none, seqLog := [], periph := ⟨coldRegs, coldRegs, coldRegs⟩,
    env := ⟨script, none, 0⟩, othersLive := [], inputs := [], hostLog := [] }

/-- The bare FIFO `(2, 0, 2 | A1, A2, A3, B1)` of vector F4. -/
def f4 : Fifo Nat := { slots := [(0, 0xA1), (1, 0xA2), (2, 0xA3), (3, 0xB1)], rd := 2, wr := 0, count := 2 }

/-- The full bare FIFO `(0, 0, 4 | 01, 02, 03, 04)` of vector F3. -/
def f3 : Fifo Nat := { slots := [(0, 1), (1, 2), (2, 3), (3, 4)], rd := 0, wr := 0, count := 4 }

/-- A receive FIFO `(0, 2, 2 | AA, AA, -, -)`. -/
def rxTwo : Fifo Byte := { slots := [(0, 0xAA), (1, 0xAA)], rd := 0, wr := 2, count := 2 }

def withFifo (f : Fifo Nat) : State := { conn .mock false [] with fifo := f }
def withRx (b : Backend) (f : Fifo Byte) (script : List Byte) : State := { conn b true script with rx := f }

/-- The state a step answers, if it does. -/
def nextOf (o : Host.Outcome State Fault Refusal) : Option State :=
  match o with
  | .next s => some s
  | .fault _ => none
  | .refused _ => none

/-- The refusal a step answers, if it does. -/
def refusalOf (o : Host.Outcome State Fault Refusal) : Option Refusal :=
  match o with
  | .next _ => none
  | .fault _ => none
  | .refused r => some r

/-- Run an instruction and look at one thing in the state it answers. -/
def after {α : Type} (i : Instr) (s : State) (look : State → α) : Option α := (nextOf (exec i s)).map look

/-- Take one step with an input pending and look at one thing in the state it answers. -/
def afterInput {α : Type} (x : Input) (s : State) (look : State → α) : Option α :=
  (nextOf (step { s with inputs := [x] })).map look

/-- The values of the history's events. -/
def values (s : State) : List PVal := s.events.map (·.value)

/-! ### What WellFormed refuses (30_encoding.md R61; 00_scope.md R6, R7) -/

theorem test_wf_refuses_wide_item : (Instr.push 256).wf 8 = false := by decide
theorem test_wf_takes_widest_item : (Instr.push 255).wf 8 = true := by decide
theorem test_wf_refuses_no_slot : { params .mock with n := 0 }.wf = false := by decide
theorem test_wf_refuses_no_rx_slot : { params .mock with nRx := 0 }.wf = false := by decide
theorem test_wf_refuses_wide_default : { params .mock with dflt := 256 }.wf = false := by decide
theorem test_wf_refuses_zero_clock : { params .mock with clkConst := 0 }.wf = false := by decide

/-! ### Words, written bit by bit from 30_encoding.md R61, R62, R64, R65 (vectors F11, S14) -/

theorem test_decode_push : decode 8 .fifo 0b001_10100101 = .ok (.push 0xA5) := rfl
theorem test_decode_pop : decode 8 .fifo 0b010_00000000 = .ok .pop := rfl
theorem test_decode_peek : decode 8 .fifo 0b011_00000000 = .ok .peek := rfl
theorem test_decode_clear : decode 8 .fifo 0b100_00000000 = .ok .clear := rfl
theorem test_decode_count : decode 8 .fifo 0b101_00000000 = .ok .count := rfl
theorem test_decode_begin : decode 8 .seq 0b0001_00000000 = .ok .begin := rfl
theorem test_decode_available : decode 8 .seq 0b0010_00000000 = .ok .available := rfl
theorem test_decode_send : decode 8 .seq 0b0011_01000001 = .ok (.send 0x41) := rfl
theorem test_decode_receive : decode 8 .seq 0b0100_00000000 = .ok .receive := rfl
theorem test_decode_isinit : decode 8 .seq 0b0101_00000000 = .ok .isinit := rfl
theorem test_decode_enable : decode 8 .seq 0b0110_00000000 = .ok .enable := rfl
theorem test_decode_disable : decode 8 .seq 0b0111_00000000 = .ok .disable := rfl
theorem test_decode_destroy : decode 8 .seq 0b1000_00000000 = .ok .destroy := rfl
theorem test_decode_push_four_bits : decode 4 .fifo 0b001_1010 = .ok (.push 0xA) := rfl
theorem test_decode_refuses_pop_operand : decode 8 .fifo 0x201 = .error (.operandBits 2 1) := rfl
theorem test_decode_refuses_fifo_zero : decode 8 .fifo 0x0FF = .error (.reservedOpcode 0) := rfl
theorem test_decode_refuses_fifo_six : decode 8 .fifo 0x600 = .error (.reservedOpcode 6) := rfl
theorem test_decode_refuses_seq_zero : decode 8 .seq 0x0AA = .error (.reservedOpcode 0) := rfl
theorem test_decode_refuses_seq_nine : decode 8 .seq 0x900 = .error (.reservedOpcode 9) := rfl
theorem test_decode_refuses_receive_operand : decode 8 .seq 0x480 = .error (.operandBits 4 0x80) := rfl
theorem test_table_word_fifo : decodeTableWord 11 0x100 = some (.push 0) := by decide
theorem test_table_word_seq : decodeTableWord 12 0x100 = some .begin := by decide

/-! ### One step of each command (the vector is named in each theorem's comment) -/

/-- F4: `PUSH 0xB1` wraps `wr` to 0 and leaves the other slots. -/
theorem test_push_wraps : after (.push 0xB1) (withFifo ⟨[(0, 0xA1), (1, 0xA2), (2, 0xA3)], 2, 3, 1⟩) (·.fifo) =
    some f4 := by decide
/-- F3: `PUSH 5` on the full FIFO is dropped. -/
theorem test_push_full : after (.push 5) (withFifo f3) (·.fifo) = some f3 := by decide
/-- F3: `POP` -> 1 `(1, 0, 3)`. -/
theorem test_pop : after .pop (withFifo f3) (fun t => (t.fifoRsp, t.fifo.rd, t.fifo.wr, t.fifo.count)) =
    some (some 1, 1, 0, 3) := by decide
/-- F1: `POP` on the empty FIFO answers 0. -/
theorem test_pop_empty : after .pop (withFifo Fifo.fresh) (fun t => (t.fifoRsp, t.fifo)) =
    some (some 0, Fifo.fresh) := by decide
/-- F4: the oldest item is 0xA3, and PEEK leaves the FIFO. -/
theorem test_peek : after .peek (withFifo f4) (fun t => (t.fifoRsp, t.fifo)) = some (some 0xA3, f4) := by
  decide
/-- F6: `CLEAR` leaves the slots. -/
theorem test_clear : after .clear (withFifo f4) (fun t => (t.fifoRsp, t.fifo)) =
    some (some 0, Fifo.mk f4.slots 0 0 0) := by decide
/-- F3: `COUNT` -> 4. -/
theorem test_count : after .count (withFifo f3) (·.fifoRsp) = some (some 4) := by decide
/-- S3: the bring-up at 9600 baud on FIRST. -/
theorem test_begin : after .begin (conn .hardware false []) values = some
    [ .owner ⟨⟨.first, .rx⟩, ⟨.first, .tx⟩⟩ .peripheral, .function ⟨⟨.first, .rx⟩, ⟨.first, .tx⟩⟩ .main, .clock true,
      .enables false false, .divisor 192, .frame ⟨8, .none, .normal, .plainDefault⟩, .intMask true,
      .enables true true ] := by decide
/-- S15: `baud = 28` gives `DIV = 65828`, refused at `BRG_W = 16`. -/
theorem test_begin_refused : refusalOf (exec .begin { conn .hardware false [] with baud := 28#32 }) =
    some .divisorTooWide := by decide
/-- S6: draws 1, 0x5A. -/
theorem test_available : after .available (conn .hardware true [1, 0x5A])
    (fun t => (t.seqRsp, t.rx, values t)) =
    some (some 1, Fifo.mk [(0, 0x5A)] 0 1 1, [.rxrdy true, .rxchr 0x5A]) := by decide
/-- S7: on a full `rx` the byte is read and dropped. -/
theorem test_available_full : after .available
    { withRx .hardware ⟨[(0, 0x10), (1, 0x20)], 0, 0, 2⟩ [1, 0x30] with cfg := { params .hardware with nRx := 2 } }
    (fun t => (t.seqRsp, t.rx, values t)) =
    some (some 2, Fifo.mk [(0, 0x10), (1, 0x20)] 0 0 2, [.rxrdy true, .rxchr 0x30]) := by decide
/-- S5: with draw 1, one read then the write. -/
theorem test_send : after (.send 0x41) (conn .hardware true [1]) (fun t => (t.seqRsp, t.seq, values t)) =
    some (some 1, .idle, [.txrdy true, .txchr 0x41]) := by decide
/-- S16: with draw 0 no `THR` write and no response. -/
theorem test_send_busy : after (.send 0x41) (conn .hardware true [0]) (fun t => (t.seqRsp, t.seq, values t)) =
    some (none, .sPoll, [.txrdy false]) := by decide
/-- L1.7 step 7: the first byte of two. -/
theorem test_receive : after .receive (withRx .mock rxTwo []) (fun t => (t.seqRsp, t.rx.rd, t.rx.wr, t.rx.count)) =
    some (some 0xAA, 1, 2, 1) := by decide
/-- L1.7 step 9: empty. -/
theorem test_receive_empty : after .receive (conn .mock true []) (fun t => (t.seqRsp, t.rx.count)) =
    some (some 0, 0) := by decide
/-- L1.7 steps 1 and 4. -/
theorem test_isinit : (after .isinit (conn .mock false []) (·.seqRsp), after .isinit (conn .mock true []) (·.seqRsp)) =
    (some (some 0), some (some 1)) := by decide
/-- S4: ENABLE makes one write of `CR`. -/
theorem test_enable : after .enable (conn .hardware true []) values = some [.enables true true] := by decide
/-- S4: DISABLE makes one write of `CR` and leaves the flag. -/
theorem test_disable : after .disable (conn .hardware true []) (fun t => (values t, t.initialized)) =
    some ([.enables false false], true) := by decide
/-- S10: DESTROY before BEGIN. -/
theorem test_destroy : after .destroy (conn .hardware false []) (fun t => (values t, t.alive)) =
    some ([.enables false false], false) := by decide
/-- S10: a later word is refused. -/
theorem test_destroyed : refusalOf (step { conn .mock false [] with alive := false, inputs := [.seqCmd 0x500] }) =
    some .notAlive := by decide
/-- S12: eager construction on SECOND at 115200 baud; SECOND is the identity with the alternate function here. -/
theorem test_construct_eager : afterInput (.seqReset { baud := 115200#32, ctrl := 1#2 }) (conn .hardware false [])
    (fun t => (t.initialized, t.ctrl, t.events.length, values t)) =
    some (true, .second, 8,
      [ .owner ⟨⟨.second, .rx⟩, ⟨.second, .tx⟩⟩ .peripheral, .function ⟨⟨.second, .rx⟩, ⟨.second, .tx⟩⟩ .alt,
        .clock true, .enables false false, .divisor 16, .frame ⟨8, .none, .normal, .plainDefault⟩, .intMask true,
        .enables true true ]) := by decide
/-- S11: `SENDZ "A\0B"` sends 0x41 only. -/
theorem test_sendz : afterInput (.pseudo (.sendz [0x41, 0, 0x42])) (conn .hardware true []) (·.inputs) =
    some [.seqCmd 0x341, .hostResult true] := by decide
/-- 30_encoding.md R66: the machine refuses a reserved word. -/
theorem test_reserved_word : refusalOf (step { conn .mock true [] with inputs := [.seqCmd 0x101] }) =
    some .reservedEncoding := by decide
/-- 30_encoding.md R60: a busy sequencer still lets the FIFO take its command. -/
theorem test_fifo_while_busy : afterInput (.fifoCmd 0x133) { conn .hardware true [0] with seq := .sPoll }
    (fun t => (t.fifo, t.seq, t.events)) = some (Fifo.mk [(0, 0x33)] 0 1 1, .sPoll, []) := by decide
/-- 60_exceptions.md R164, 70_reset_and_hazards.md R190: a reset behind a held word and a held result mark of a SENDN
ends the hang. -/
theorem test_reset_passes_held_inputs :
    (nextOf (step { conn .hardware true [0] with
      seq := .sPoll, inputs := [.seqCmd 0x341, .hostResult true, .seqReset ⟨9600#32, 0#2, false⟩, .idle] })).map
      (fun t => (t.seq, t.initialized, t.events, t.inputs)) = some (.idle, false, [], [.idle]) := by decide
/-- 30_encoding.md R60: a word on the FIFO's port is taken while a word for the sequencer is held, which stays. -/
theorem test_fifo_passes_held_word :
    (nextOf (step { conn .hardware true [0] with seq := .sPoll, inputs := [.seqCmd 0x400, .fifoCmd 0x133] })).map
      (fun t => (t.fifo.count, t.seq, t.inputs)) = some (1, .sPoll, [.seqCmd 0x400]) := by decide

/-! ### Witnesses: for every obligation with hypotheses, a state and operands that meet them together -/

theorem witness_DecodeOfEncodeIsTheInstruction :
    (Instr.push 255).wf 8 = true ∧ (Instr.push 0).wf 0 = true ∧ (Instr.send 255).wf 8 = true := by decide

theorem witness_AcceptedWordIsTheEncoding :
    decode 8 .fifo 0x1FF = .ok (.push 255) ∧ decode 8 .seq 0x3FF = .ok (.send 0xFF#8) ∧
      decode 8 .seq 0x800 = .ok .destroy := ⟨rfl, rfl, rfl⟩

/-- Reserved words at the edges: opcode 0 with the largest operand, the first opcode beyond the map, the smallest
operand of a command without one; and states that present them. -/
theorem witness_ReservedWordsAreRefused :
    ReservedFifoWord 8 0x0FF ∧ ReservedFifoWord 8 0x600 ∧ ReservedFifoWord 8 0x201 ∧
    ReservedSeqWord 0x0FF ∧ ReservedSeqWord 0x900 ∧ ReservedSeqWord 0x101 ∧
    (∃ s : State, s.inputs = .fifoCmd 0x201 :: [] ∧ ReservedFifoWord s.cfg.w 0x201) ∧
    (∃ s : State, s.inputs = .seqCmd 0x900 :: [] ∧ s.seq = .idle) := by
  refine ⟨by unfold ReservedFifoWord; decide, by unfold ReservedFifoWord; decide,
    by unfold ReservedFifoWord; decide, by unfold ReservedSeqWord; decide, by unfold ReservedSeqWord; decide,
    by unfold ReservedSeqWord; decide, ⟨{ conn .mock false [] with inputs := [.fifoCmd 0x201] }, rfl, ?_⟩,
    ⟨{ conn .mock false [] with inputs := [.seqCmd 0x900] }, rfl, rfl⟩⟩
  unfold ReservedFifoWord
  decide

theorem witness_FieldCodesAreThoseOfTheTables :
    ctrlOfCode 3#2 = none ∧ regCode .rhr = 9#4 ∧ phaseCode .aRead = 13#4 := by decide

/-- Widths at and beside a power of two: the premises `n < 2^k`, `1 <= k` and `n <= 2^k`. -/
theorem witness_RegisterWidthsAreLeast : countWidth 4 = 3 ∧ countWidth 3 = 2 ∧ indexWidth 4 = 2 ∧ indexWidth 1 = 1 ∧
    4 < 2 ^ 3 ∧ 1 ≤ 2 ∧ 4 ≤ 2 ^ 2 := by decide

theorem witness_StepRunsTheFifoCommand :
    ∃ s : State, s.inputs = .fifoCmd 0x1A5 :: [] ∧ decode s.cfg.w .fifo 0x1A5 = .ok (.push 0xA5) :=
  ⟨{ conn .mock false [] with inputs := [.fifoCmd 0x1A5] }, rfl, rfl⟩

theorem witness_StepRunsTheSequencerCommand :
    ∃ s : State, s.inputs = .seqCmd 0x341 :: [] ∧ s.seq = .idle ∧ decode s.cfg.w .seq 0x341 = .ok (.send 0x41#8) :=
  ⟨{ conn .mock false [] with inputs := [.seqCmd 0x341] }, rfl, rfl, rfl⟩

theorem witness_IdleStepChangesNothing :
    (conn .mock false []).seq = .idle ∧ (conn .mock false []).inputs = [] ∧
      { conn .mock false [] with inputs := [.idle] }.inputs = .idle :: [] := ⟨rfl, rfl, rfl⟩

/-- A SEND in flight with another word waiting. -/
def spinning : State :=
  { conn .hardware true [0] with seq := .sPoll, txByte := 0x41#8, inputs := [.seqCmd 0x400] }

/-- A word, a pseudo-instruction and a result mark held; and nothing held. -/
theorem witness_CommandInFlightHoldsThePort :
    (∀ s ∈ [spinning, { spinning with inputs := [.seqCmd 0x400, .pseudo .getc, .hostResult true] },
        { spinning with inputs := [] }],
      s.seq ≠ .idle ∧ (∀ x ∈ s.inputs, x.waits = true) ∧ (nextOf (step s)).isSome = true) := by decide

/-- The refusal of one step on the inputs given. -/
def refusedFor (s : State) (x : Input) : Option Refusal := refusalOf (step { s with inputs := [x] })

theorem takes_first {s : State} {x : Input} (h : s.due = [x]) : Takes s x := ⟨[], h⟩

/-- One input for each refusal, at its edge where it has one, and the same refusals not answered beside it. -/
theorem witness_StepRefusesExactlyTheseInputs :
    [ refusedFor (conn .mock true []) (.fifoCmd 0x201), refusedFor (conn .mock true []) (.seqCmd 0x900),
      refusedFor { conn .mock true [] with alive := false } (.seqCmd 0x500),
      refusedFor { conn .mock true [] with alive := false } (.pseudo .getc),
      refusedFor (conn .mock true []) (.seqReset ⟨0#32, 3#2, true⟩),
      refusedFor (conn .mock true []) (.seqReset ⟨1#32, 3#2, true⟩),
      refusedFor { conn .mock true [] with othersLive := [.third] } (.seqReset ⟨1#32, 2#2, true⟩),
      refusedFor { conn .mock true [] with cfg := { params .mock with n := 0 } } .fifoReset,
      refusedFor { conn .mock true [] with cfg := { params .mock with nRx := 0 } } (.seqReset ⟨1#32, 2#2, true⟩),
      refusedFor (conn .mock false []) (.pseudo (.sendz [0x41])),
      refusedFor (conn .mock true []) (.pseudo (.insText [])),
      refusedFor { conn .hardware false [] with baud := 28#32 } (.seqCmd 0x100),
      refusedFor (conn .hardware true []) (.seqReset ⟨28#32, 2#2, true⟩),
      refusedFor { conn .hardware false [] with baud := 28#32, seq := .bBaud } .idle,
      refusedFor { conn .hardware false [] with baud := 29#32, seq := .bBaud } .idle,
      refusedFor (conn .hardware true []) (.seqReset ⟨29#32, 2#2, true⟩) ] =
    [ some .reservedEncoding, some .reservedEncoding, some .notAlive, some .notAlive, some .badBaud,
      some .badController, some .sharedController, some .badCapacity, some .badCapacity, some .noTerminator,
      some .noTerminator, some .divisorTooWide, some .divisorTooWide, some .divisorTooWide, none, none ] := by
  decide

/-- The words of the statement on those states: what they take, and straps that are good but for the divisor. -/
theorem witness_StepRefusesExactlyTheseInputs_words :
    Takes { conn .mock true [] with inputs := [.fifoCmd 0x201] } (.fifoCmd 0x201) ∧
    ReservedFifoWord 8 0x201 ∧ ¬ ReservedSeqWord 0x500 ∧
    Takes { conn .mock true [] with inputs := [.pseudo .getc] } (.pseudo .getc) ∧
    GoodStraps (conn .hardware true []) ⟨28#32, 2#2, true⟩ .third ∧
    MakesPhase { conn .hardware false [] with seq := .bBaud } ∧
    Takes { spinning with inputs := [.seqCmd 0x400, .hostResult true, .fifoReset] } .fifoReset := by
  refine ⟨takes_first rfl, ?_, ?_, takes_first rfl, ?_, .inl rfl, takes_first rfl⟩
  · unfold ReservedFifoWord
    decide
  · unfold ReservedSeqWord
    decide
  · unfold GoodStraps
    decide

/-- Full, one below full, and empty. -/
theorem witness_PushFollowsItsRule :
    255 < 2 ^ (withFifo f3).cfg.w ∧ (withFifo f3).fifo.count = (withFifo f3).cfg.n ∧
      (withFifo { f3 with wr := 3, count := 3 }).fifo.count ≠ (withFifo { f3 with wr := 3, count := 3 }).cfg.n ∧
      (withFifo Fifo.fresh).fifo.count ≠ (withFifo Fifo.fresh).cfg.n := by decide

theorem witness_PopFollowsItsRule :
    (withFifo Fifo.fresh).fifo.count = 0 ∧ (withFifo f4).fifo.count ≠ 0 ∧
      (withFifo f4).fifo.slotRead (freeItem 8) 2 = 0xA3 := ⟨rfl, by decide, rfl⟩

theorem witness_PeekFollowsItsRule :
    (withFifo Fifo.fresh).fifo.count = 0 ∧ (withFifo f3).fifo.count ≠ 0 ∧
      (withFifo f3).fifo.slotRead (freeItem 8) 0 = 1 := ⟨rfl, by decide, rfl⟩

theorem f3_inv : FifoInv 4 (fun v => v < 2 ^ 8) f3 :=
  ((((FifoInv.fresh (by decide)).push 1 (by decide)).push 2 (by decide)).push 3 (by decide)).push 4 (by decide)

theorem f4_inv : FifoInv 4 (fun v => v < 2 ^ 8) f4 :=
  ((((((FifoInv.fresh (by decide)).push 0xA1 (by decide)).push 0xA2 (by decide)).push 0xA3 (by decide)).drop).drop).push
    0xB1 (by decide)

/-- Full (the push is dropped), wrapped with room, and empty. -/
theorem witness_FifoIsABoundedQueue :
    (FifoInv 4 (fun v => v < 2 ^ 8) f3 ∧ f3.items 4 (freeItem 8) = [1, 2, 3, 4]) ∧
    (FifoInv 4 (fun v => v < 2 ^ 8) f4 ∧ f4.items 4 (freeItem 8) = [0xA3, 0xB1]) ∧
    (FifoInv 4 (fun v => v < 2 ^ 8) Fifo.fresh ∧ (Fifo.fresh : Fifo Nat).items 4 (freeItem 8) = []) :=
  ⟨⟨f3_inv, rfl⟩, ⟨f4_inv, rfl⟩, ⟨FifoInv.fresh (by decide), rfl⟩⟩

theorem witness_PushesSaturateAtCapacity :
    (conn .mock false []).fifo = Fifo.fresh ∧ 1 ≤ (conn .mock false []).cfg.n ∧
      ∀ v ∈ [1, 2, 3, 4, 255], v < 2 ^ (conn .mock false []).cfg.w := by decide

theorem witness_FifoCommandsAlwaysComplete : (Instr.push 0xA5).port = .fifo ∧ Instr.count.port = .fifo := by decide

theorem witness_FifoResetFollowsItsRule :
    ∃ s t : State, s.inputs = .fifoReset :: [] ∧ s.cfg.n = 0 ∧ t.inputs = .fifoReset :: [] ∧ t.cfg.n ≠ 0 :=
  ⟨{ conn .mock false [] with inputs := [.fifoReset], cfg := { params .mock with n := 0 } },
    { conn .mock false [] with inputs := [.fifoReset] }, rfl, rfl, rfl, by decide⟩

/-- The nearest accepted divisor (S15): `baud = 29`. -/
theorem witness_BeginOnHardwareRunsTheBringUp :
    ∃ s : State, s.alive = true ∧ s.initialized = false ∧ s.cfg.backend = .hardware ∧
      s.cfg.clkConst / s.baud.toNat < 2 ^ s.cfg.brgW :=
  ⟨{ conn .hardware false [] with baud := 29#32 }, rfl, rfl, rfl, by decide⟩

theorem witness_BeginWithoutAccess :
    (conn .hardware true []).alive = true ∧ (conn .hardware true []).initialized = true ∧
      (conn .mock false []).alive = true ∧ (conn .mock false []).initialized = false ∧
      (conn .mock false []).cfg.backend = .mock := by decide

/-- The nearest refused divisor (S15): `baud = 28`. -/
theorem witness_WideDivisorIsRefused :
    ∃ s : State, s.alive = true ∧ s.initialized = false ∧ s.cfg.backend = .hardware ∧
      2 ^ s.cfg.brgW ≤ s.cfg.clkConst / s.baud.toNat :=
  ⟨{ conn .hardware false [] with baud := 28#32 }, rfl, rfl, rfl, by decide⟩

/-- A baud rate below the clock constant and one above it (S13). -/
theorem witness_DivisorIsTheRoundedDownQuotient :
    (conn .hardware false []).baud ≠ 0#32 ∧ { conn .hardware false [] with baud := 1843201#32 }.baud ≠ 0#32 ∧
      (conn .hardware false []).cfg.clkConst < (1843201#32).toNat := by decide

theorem witness_ControllerTablesAreStatic :
    muxFnOf .second .second = .alt ∧ (pinsOf .third).rx = (pinsOf .third).rx := by decide

theorem witness_GatedCommandsAreNeutralWhileUninitialized :
    (∀ i ∈ [Instr.available, .send 0x55, .receive, .isinit],
      i = .available ∨ (∃ b, i = .send b) ∨ i = .receive ∨ i = .isinit) ∧
    (conn .hardware false []).alive = true ∧ (conn .hardware false []).initialized = false :=
  ⟨by simp, rfl, rfl⟩

theorem witness_AvailableWithNothingWaiting :
    (conn .hardware true [0xFE]).alive = true ∧ (conn .hardware true [0xFE]).initialized = true ∧
      (conn .hardware true [0xFE]).cfg.backend = .hardware ∧
      (conn .hardware true [0xFE]).env.value.getLsbD 0 = false := by decide

/-- A full receive FIFO. -/
def rxFull : Fifo Byte := { slots := [(0, 0xAA), (1, 0xAA), (2, 0xAA), (3, 0xAA)], rd := 0, wr := 0, count := 4 }

/-- With room, and full. -/
theorem witness_AvailableStagesExactlyOneByte :
    (withRx .hardware rxTwo [1, 0x5A]).alive = true ∧ (withRx .hardware rxTwo [1, 0x5A]).initialized = true ∧
      (withRx .hardware rxTwo [1, 0x5A]).cfg.backend = .hardware ∧
      (withRx .hardware rxTwo [1, 0x5A]).env.value.getLsbD 0 = true ∧
      (withRx .hardware rxTwo [1, 0x5A]).env.next.value = 0x5A#8 ∧
      (withRx .hardware rxTwo [1, 0x5A]).rx.count ≠ 4 ∧
      (withRx .hardware rxFull [1, 0x30]).rx.count = (withRx .hardware rxFull [1, 0x30]).cfg.nRx := by decide

theorem rxFull_inv : FifoInv 4 (fun b => b = 0xAA#8) rxFull :=
  have empty : FifoInv 4 (fun b => b = 0xAA#8) Fifo.fresh := FifoInv.fresh (by decide)
  (((empty.push 0xAA#8 rfl).push 0xAA#8 rfl).push 0xAA#8 rfl).push 0xAA#8 rfl

/-- Empty and full. -/
theorem witness_MockGrowthLaw :
    (withRx .mock rxFull []).alive = true ∧ (withRx .mock rxFull []).initialized = true ∧
      (withRx .mock rxFull []).cfg.backend = .mock ∧
      FifoInv 4 (fun b => b = 0xAA#8) (withRx .mock rxFull []).rx ∧
      FifoInv 4 (fun b => b = 0xAA#8) (conn .mock true []).rx :=
  ⟨rfl, rfl, rfl, rxFull_inv, FifoInv.fresh (n := 4) (by decide)⟩

theorem witness_SendCompletesWhenReady :
    (conn .hardware true [1]).alive = true ∧ (conn .hardware true [1]).initialized = true ∧
      (conn .hardware true [1]).cfg.backend = .hardware ∧ (conn .hardware true [1]).env.value.getLsbD 0 = true ∧
      (conn .mock true []).alive = true ∧ (conn .mock true []).initialized = true ∧
      (conn .mock true []).cfg.backend = .mock := by decide

theorem witness_SendWaitsWhileBusy :
    (conn .hardware true [0]).alive = true ∧ (conn .hardware true [0]).initialized = true ∧
      (conn .hardware true [0]).cfg.backend = .hardware ∧
      (conn .hardware true [0]).env.value.getLsbD 0 = false := by decide

/-- S5: draws 0, 0, 1, and at once a ready one. -/
theorem witness_SendCompletesAfterBusyPolls :
    (∃ s : State, s.alive = true ∧ s.initialized = true ∧ s.cfg.backend = .hardware ∧ s.seq = .idle ∧
      s.inputs = [.seqCmd (0x300 + (0xFF#8).toNat)] ∧ s.env.script = [] ++ 1#8 :: [7#8] ∧
      (∀ d ∈ ([] : List Byte), d.getLsbD 0 = false) ∧ (1#8).getLsbD 0 = true) ∧
    ∃ s : State, s.alive = true ∧ s.initialized = true ∧ s.cfg.backend = .hardware ∧ s.seq = .idle ∧
      s.inputs = [.seqCmd (0x300 + (0x41#8).toNat)] ∧ s.env.script = [0#8, 0#8] ++ 1#8 :: [] ∧
      (∀ d ∈ [0#8, 0#8], d.getLsbD 0 = false) ∧ (1#8).getLsbD 0 = true :=
  ⟨⟨{ conn .hardware true [1, 7] with inputs := [.seqCmd 0x3FF] }, rfl, rfl, rfl, rfl, rfl, rfl, by decide, rfl⟩,
    { conn .hardware true [0, 0, 1] with inputs := [.seqCmd 0x341] }, rfl, rfl, rfl, rfl, rfl, rfl, by decide, rfl⟩

/-- A script of zeros, and zeros for ever after it. -/
theorem zeros_never_ready (n k : Nat) : (Env.mk (List.replicate n 0#8) (some 0#8) k).NeverReady := by
  intro m
  induction m generalizing n k with
  | zero => cases n <;> simp [Env.afterDraws, Env.value, List.replicate_succ]
  | succ m ih =>
    cases n with
    | zero => exact ih 0 (k + 1)
    | succ n => exact ih n (k + 1)

/-- S16: draws 0 for ever, after a script of zeros and at once; a word, a pseudo-instruction and a result mark held. -/
theorem witness_SendHangsWhileEveryPollFails :
    ∃ s u : State, s.cfg.backend = .hardware ∧ s.seq = .sPoll ∧ s.env.NeverReady ∧
      (∀ x ∈ s.inputs, x.waits = true) ∧ s.inputs.length = 3 ∧
      u.cfg.backend = .hardware ∧ u.seq = .sPoll ∧ u.env.NeverReady ∧ (∀ x ∈ u.inputs, x.waits = true) :=
  ⟨{ spinning with
      env := ⟨[0#8, 0#8], some 0#8, 0⟩
      inputs := [.seqCmd 0x400, .pseudo (.sendn [1]), .hostResult true] },
    { spinning with env := ⟨[], some 0#8, 0⟩, inputs := [] },
    rfl, rfl, zeros_never_ready 2 0, by decide, rfl, rfl, rfl, zeros_never_ready 0 0, by decide⟩

theorem witness_ReceivePopsTheStagedByte :
    (withRx .mock rxTwo []).alive = true ∧ (withRx .mock rxTwo []).initialized = true ∧
      (withRx .mock rxTwo []).rx.count ≠ 0 ∧ rxTwo.slotRead Config.unwrittenByte 0 = 0xAA#8 ∧
      (conn .mock true []).alive = true ∧ (conn .mock true []).rx.count = 0 ∧
      (conn .mock false []).alive = true ∧ (conn .mock false []).initialized = false :=
  ⟨rfl, rfl, by decide, rfl, rfl, rfl, rfl, rfl⟩

theorem witness_CountFollowsItsRule :
    FifoInv (withFifo f3).cfg.n (fun v => v < 2 ^ (withFifo f3).cfg.w) (withFifo f3).fifo ∧
      ∃ t, exec .count (withFifo f3) = .next t ∧ t.fifoRsp = some 4 := ⟨f3_inv, _, rfl, rfl⟩

theorem witness_IsinitReportsTheFlag : (conn .mock false []).alive = true ∧ (conn .mock true []).alive = true := by
  decide

theorem witness_EnableAndDisableWriteControlOnly :
    (conn .hardware false []).alive = true ∧ (conn .hardware false []).cfg.backend = .hardware ∧
      (conn .mock true []).alive = true ∧ (conn .mock true []).cfg.backend = .mock := by decide

theorem witness_DestroyDisablesAndEnds :
    (conn .hardware false []).alive = true ∧ (conn .hardware false []).cfg.backend = .hardware ∧
      (conn .mock true []).alive = true ∧ (conn .mock true []).cfg.backend = .mock ∧
      (∃ t, exec .destroy (conn .hardware false []) = .next t) ∧ Instr.begin.port = .seq :=
  ⟨rfl, rfl, rfl, rfl, ⟨_, rfl⟩, rfl⟩

/-- A construction and commands that go on, DESTROY as the step's command, and a destroyed connection. -/
theorem witness_AliveFromResetToDestroy :
    (∃ t, construct ⟨9600#32, 0#2, false⟩ (conn .mock true []) = .next t) ∧
    (∃ t, exec .destroy (conn .mock true []) = .next t) ∧
    (∃ t, exec .isinit (conn .mock true []) = .next t) ∧ Instr.isinit ≠ .destroy ∧
    (∃ t, step { conn .mock true [] with inputs := [.seqCmd 0x800] } = .next t ∧
      t.alive ≠ (conn .mock true []).alive) ∧
    Instr.isinit.port = .seq ∧ { conn .mock true [] with alive := false }.alive = false :=
  ⟨⟨_, rfl⟩, ⟨_, rfl⟩, ⟨_, rfl⟩, by decide, ⟨_, rfl, by decide⟩, rfl, rfl⟩

/-- A construction over a spinning SEND, on SECOND, not eager. -/
theorem witness_ConstructionResetsTheConnection :
    ∃ (s : State) (straps : Straps), s.inputs = .seqReset straps :: [] ∧ straps.baud ≠ 0#32 ∧
      straps.ctrl = ctrlCode .second ∧ CtrlId.second ∉ s.othersLive ∧ s.cfg.nRx ≠ 0 ∧ straps.eager = false :=
  ⟨{ spinning with inputs := [.seqReset ⟨1#32, 1#2, false⟩] }, ⟨1#32, 1#2, false⟩, rfl, by decide, rfl, by decide,
    by decide, rfl⟩

/-- On hardware with the nearest accepted divisor, and on the mock. -/
theorem witness_EagerConstructionBringsUp :
    (∃ (s : State) (straps : Straps), s.inputs = .seqReset straps :: [.idle] ∧ straps.baud ≠ 0#32 ∧
      straps.ctrl = ctrlCode .second ∧ CtrlId.second ∉ s.othersLive ∧ s.cfg.nRx ≠ 0 ∧ straps.eager = true ∧
      s.cfg.backend = .mock) ∧
    ∃ (s : State) (straps : Straps), s.inputs = .seqReset straps :: [] ∧ straps.baud ≠ 0#32 ∧
      straps.ctrl = ctrlCode .third ∧ CtrlId.third ∉ s.othersLive ∧ s.cfg.nRx ≠ 0 ∧ straps.eager = true ∧
      s.cfg.backend = .hardware ∧ s.cfg.clkConst / straps.baud.toNat < 2 ^ s.cfg.brgW :=
  ⟨⟨{ conn .mock true [] with inputs := [.seqReset ⟨1#32, 1#2, true⟩, .idle] }, ⟨1#32, 1#2, true⟩, rfl, by decide, rfl,
    by decide, by decide, rfl, rfl⟩,
    { spinning with inputs := [.seqReset ⟨29#32, 2#2, true⟩] }, ⟨29#32, 2#2, true⟩, rfl, by decide, rfl, by decide,
    by decide, rfl, rfl, by decide⟩

/-- One construction for each refusal, the reasons tested before it not holding. -/
theorem witness_BadConstructionsAreRefused :
    (Straps.mk 0#32 0#2 true).baud = 0#32 ∧
    ((Straps.mk 1#32 3#2 true).baud ≠ 0#32 ∧ (Straps.mk 1#32 3#2 true).ctrl = 3#2) ∧
    ((Straps.mk 1#32 1#2 true).baud ≠ 0#32 ∧ (Straps.mk 1#32 1#2 true).ctrl = ctrlCode .second ∧
      CtrlId.second ∈ { conn .mock true [] with othersLive := [.second] }.othersLive) ∧
    (CtrlId.second ∉ (conn .mock true []).othersLive ∧
      { conn .mock true [] with cfg := { params .mock with nRx := 0 } }.cfg.nRx = 0) ∧
    ((Straps.mk 28#32 1#2 true).baud ≠ 0#32 ∧ (Straps.mk 28#32 1#2 true).ctrl = ctrlCode .second ∧
      CtrlId.second ∉ (conn .hardware true []).othersLive ∧ (conn .hardware true []).cfg.nRx ≠ 0 ∧
      (Straps.mk 28#32 1#2 true).eager = true ∧ (conn .hardware true []).cfg.backend = .hardware ∧
      2 ^ (conn .hardware true []).cfg.brgW ≤
        (conn .hardware true []).cfg.clkConst / (Straps.mk 28#32 1#2 true).baud.toNat) ∧
    ∃ s : State, s.inputs = .seqReset ⟨1#32, 3#2, true⟩ :: [] :=
  ⟨rfl, ⟨by decide, rfl⟩, ⟨by decide, rfl, by decide⟩, ⟨by decide, rfl⟩,
    ⟨by decide, rfl, by decide, by decide, rfl, rfl, by decide⟩,
    ⟨{ conn .mock true [] with inputs := [.seqReset ⟨1#32, 3#2, true⟩] }, rfl⟩⟩

/-- A hardware connection right after a successful poll of a SEND, with a byte staged and two items in the bare
FIFO. -/
def writing : State :=
  { conn .hardware true [] with
    fifo := f4
    rx := rxTwo
    seq := .sWrite
    txByte := 0x41#8
    events := [⟨.read, .first, .sr, .txrdy true⟩]
    seqLog := [1]
    fifoLog := [0, 255] }

theorem writing_inv : Inv writing where
  cfg := by decide
  fifo := f4_inv
  rx := ((FifoInv.fresh (by decide)).push 0xAA#8 trivial).push 0xAA#8 trivial
  baud := by decide
  unshared := by decide
  empty := fun h => by cases h
  flight := fun _ => ⟨rfl, rfl, rfl⟩
  after := fun e h => by
    cases h
    rfl
  mock := fun h => by cases h
  polled := polled_snoc polled_nil (fun p h => by cases h)
  own := by decide
  fifoFits := by decide
  seqFits := by decide

theorem witness_EveryStepKeepsTheInvariant : Inv writing ∧ ∃ t, step writing = .next t := ⟨writing_inv, _, rfl⟩

theorem witness_OnlyBeginChangesTheInitializedFlag :
    (∃ t, exec .begin (conn .mock false []) = .next t ∧ t.initialized ≠ (conn .mock false []).initialized) ∧
    (∃ t, step (conn .mock true []) = .next t) ∧ ¬ ResetNext (conn .mock true []) ∧
      (conn .mock true []).initialized = true :=
  ⟨⟨_, rfl, by decide⟩, ⟨_, rfl⟩, (fun ⟨_, _, h⟩ => by cases h), rfl⟩

theorem witness_StrapsAndParametersAreLatched : (∃ t, step spinning = .next t) ∧ ¬ ResetNext spinning :=
  ⟨⟨_, rfl⟩, fun ⟨_, _, h⟩ => by cases h⟩

theorem witness_HistoryIsOnlyAppendedTo : (∃ t, step writing = .next t) ∧ ¬ ResetNext writing :=
  ⟨⟨_, rfl⟩, fun ⟨_, _, h⟩ => by cases h⟩

theorem witness_OtherIdentitiesRegistersAreUntouched :
    ∃ t, step writing = .next t ∧ CtrlId.second ≠ t.ctrl := ⟨_, rfl, by decide⟩

/-- A command that writes `THR`, a step that takes such a word, the phase that writes it, and a SEND that waits. -/
theorem witness_ThrBytesAreSendOperands :
    (∃ t, exec (.send 0x41) (conn .hardware true [1]) = .next t ∧
      t.events = (conn .hardware true [1]).events ++
        [⟨.read, .first, .sr, .txrdy true⟩, ⟨.write, .first, .thr, .txchr 0x41⟩]) ∧
    (∃ t, step { conn .hardware true [1] with inputs := [.seqCmd 0x341] } = .next t ∧
      t.events = (conn .hardware true [1]).events ++
        [⟨.read, .first, .sr, .txrdy true⟩, ⟨.write, .first, .thr, .txchr 0x41⟩]) ∧
    (⟨.write, .first, .thr, .txchr 0x41⟩ : Event) ∈
      [(⟨.read, .first, .sr, .txrdy true⟩ : Event), ⟨.write, .first, .thr, .txchr 0x41⟩] ∧
    (∃ t, step writing = .next t ∧ t.events = writing.events ++ [⟨.write, .first, .thr, .txchr 0x41⟩]) ∧
    (∃ t, exec (.send 0x41) (conn .hardware true [0]) = .next t ∧
      t.txByte ≠ (conn .hardware true [0]).txByte) ∧
    (∃ t, step { conn .hardware true [0] with inputs := [.seqCmd 0x341] } = .next t ∧
      t.txByte ≠ (conn .hardware true [0]).txByte) ∧
    ¬ ResetNext { conn .hardware true [0] with inputs := [.seqCmd 0x341] } :=
  ⟨⟨_, rfl, rfl⟩, ⟨_, rfl, rfl⟩, by decide, ⟨_, rfl, rfl⟩, ⟨_, rfl, by decide⟩, ⟨_, rfl, by decide⟩,
    fun ⟨_, _, h⟩ => by cases h⟩

theorem witness_OnlyAvailableAndReceiveTouchTheReceiveFifo :
    (∃ t, exec .disable (withRx .hardware rxTwo []) = .next t) ∧ Instr.disable ≠ .available ∧
      Instr.disable ≠ .receive := ⟨⟨_, rfl⟩, by decide, by decide⟩

theorem witness_BlocksAreIndependent :
    (∃ t, exec .enable (withFifo f4) = .next t) ∧ Instr.enable.port = .seq ∧
      (∃ t, exec .pop (withFifo f4) = .next t) ∧ Instr.pop.port = .fifo := ⟨⟨_, rfl⟩, rfl, ⟨_, rfl⟩, rfl⟩

/-- Uninitialized for the bring-up, initialized with a ready and with a busy poll for the others. -/
theorem witness_CommandsRefineTheirPhases :
    (∀ s ∈ [conn .hardware false [], conn .hardware true [1, 0x5A], conn .hardware true [0]],
      s.alive = true ∧ s.cfg.backend = .hardware ∧ s.seq = .idle ∧ s.inputs = [] ∧ s.fifoRsp = none ∧
        s.seqRsp = none) ∧
    (conn .hardware false []).initialized = false ∧ (conn .hardware false []).divisorTooWide = false ∧
    (conn .hardware true [1, 0x5A]).initialized = true ∧ (conn .hardware true [1, 0x5A]).drawnFlag = true ∧
    (conn .hardware true [0]).initialized = true ∧ (conn .hardware true [0]).drawnFlag = false := by decide

/-- AVAILABLE on an initialized pair, and BEGIN on an uninitialized one. -/
theorem witness_HardwareCanStandForTheMock :
    (Twins (conn .hardware true [1, 0xAA]) (conn .mock true []) ∧
      DrawsLikeMock (conn .hardware true [1, 0xAA]).env .available ∧
      ∃ t, exec .available (conn .mock true []) = .next t) ∧
    (Twins (conn .hardware false []) (conn .mock false []) ∧ (conn .hardware false []).divisorTooWide = false ∧
      DrawsLikeMock (conn .hardware false []).env .begin ∧ ∃ t, exec .begin (conn .mock false []) = .next t) :=
  ⟨⟨⟨rfl, rfl⟩, ⟨rfl, rfl⟩, _, rfl⟩, ⟨rfl, rfl⟩, by decide, trivial, _, rfl⟩

theorem witness_SendnIsOneSendPerByte :
    ∃ s u v : State, s.inputs = .pseudo (.sendn [1, 2, 3]) :: [] ∧ s.seq = .idle ∧ s.alive = true ∧
      s.initialized = true ∧ u.inputs = .pseudo (.sendn [1, 2, 3]) :: [] ∧ u.seq = .idle ∧ u.alive = true ∧
      u.initialized = false ∧ v.inputs = .hostResult false :: [.idle] ∧ v.seq = .idle :=
  ⟨{ conn .mock true [] with inputs := [.pseudo (.sendn [1, 2, 3])] },
    { conn .mock false [] with inputs := [.pseudo (.sendn [1, 2, 3])] },
    { conn .mock false [] with inputs := [.hostResult false, .idle] }, rfl, rfl, rfl, rfl, rfl, rfl, rfl, rfl, rfl, rfl⟩

theorem witness_SendnCompletesOnTheMock :
    ∃ s : State, s.inputs = [.pseudo (.sendn [0x48, 0x69])] ∧ s.seq = .idle ∧ s.alive = true ∧
      s.initialized = true ∧ s.cfg.backend = .mock :=
  ⟨{ conn .mock true [] with inputs := [.pseudo (.sendn [0x48, 0x69])] }, rfl, rfl, rfl, rfl, rfl⟩

/-- Text with bytes after the zero byte (S11), and a sequence without a zero byte. -/
theorem witness_SendzSendsTheTextBeforeTheZero :
    (∃ s : State, s.inputs = .pseudo (.sendz ([0x41] ++ 0#8 :: [0x42])) :: [] ∧ s.seq = .idle ∧ s.alive = true) ∧
    (∀ b ∈ [0x41#8], b ≠ 0#8) ∧
    (∃ s : State, s.inputs = .pseudo (.sendz [0x41]) :: [] ∧ s.seq = .idle ∧ s.alive = true) :=
  ⟨⟨{ conn .mock true [] with inputs := [.pseudo (.sendz [0x41, 0, 0x42])] }, rfl, rfl, rfl⟩, by decide,
    ⟨{ conn .mock true [] with inputs := [.pseudo (.sendz [0x41])] }, rfl, rfl, rfl⟩⟩

theorem witness_StreamFormsAreSendAndReceive :
    (conn .mock true []).seq = .idle ∧ (conn .mock true []).alive = true ∧ ∀ x ∈ [0x48#8, 0x69#8], x ≠ 0#8 := by
  decide

/-- What is held behind a spinning SEND: the rest of a SENDN and its mark; and nothing. -/
def heldRest : List Input := [.seqCmd 0x341, .seqCmd 0x342, .hostResult true]

/-- One input of each of the four kinds behind what is held. -/
theorem witness_HeldInputsLetTheOthersPass :
    spinning.seq ≠ .idle ∧ (∀ x ∈ heldRest, x.waits = true) ∧ (∀ x ∈ ([] : List Input), x.waits = true) ∧
    ∀ x ∈ [Input.idle, .fifoCmd 0x133, .fifoReset, .seqReset ⟨9600#32, 0#2, false⟩],
      { spinning with inputs := heldRest ++ x :: [.idle] }.inputs = heldRest ++ x :: [.idle] ∧
        (nextOf (step { spinning with inputs := heldRest ++ x :: [.idle] })).isSome = true := by decide

/-- Two more polls, then the reset, behind the rest of a SENDN. -/
theorem witness_ResetEndsAHang :
    ∃ s : State, s.cfg.backend = .hardware ∧ s.seq = .sPoll ∧ s.env.NeverReady ∧
      (∀ x ∈ heldRest, x.waits = true) ∧
      s.inputs = heldRest ++ List.replicate 2 .idle ++ .seqReset ⟨115200#32, 1#2, false⟩ :: [] ∧
      (115200#32 : Word32) ≠ 0#32 ∧ 1#2 = ctrlCode .second ∧ CtrlId.second ∉ s.othersLive ∧ s.cfg.nRx ≠ 0 :=
  ⟨{ spinning with
      env := ⟨[], some 0#8, 0⟩
      inputs := heldRest ++ List.replicate 2 .idle ++ [.seqReset ⟨115200#32, 1#2, false⟩] },
    rfl, rfl, zeros_never_ready 0 0, by decide, rfl, by decide, rfl, by decide, by decide⟩

end Sys2Proof.Tests
end

/-! ## The widths of the FIFO's registers (00_scope.md R6)

Each width is characterised by an `↔`: the values `k` it is at most are those that satisfy the spec's bound. -/

namespace Sys2Proof.Machine

/-- The `k` of R6's condition on `CW` are exactly those from `countWidth n` on. -/
theorem countWidth_le_iff (n k : Nat) : countWidth n ≤ k ↔ n < 2 ^ k := by
  unfold countWidth
  split
  next hzero =>
    subst hzero
    exact iff_of_true (Nat.zero_le k) (Nat.two_pow_pos k)
  next hpos => exact Nat.log2_lt hpos

theorem indexWidth_of_le_two {n : Nat} (h : n ≤ 2) : indexWidth n = 1 := if_pos h

/-- Beyond two slots an index needs the width of the largest one, `n - 1`. -/
theorem indexWidth_of_two_lt {n : Nat} (h : 2 < n) : indexWidth n = countWidth (n - 1) := by
  have hle : ¬ n ≤ 2 := by omega
  have hpred : n - 1 ≠ 0 := by omega
  simp only [indexWidth, countWidth, if_neg hle, if_neg hpred]

/-- The `k` of R6's conditions on `IW` are exactly those from `indexWidth n` on. -/
theorem indexWidth_le_iff (n k : Nat) : indexWidth n ≤ k ↔ 1 ≤ k ∧ n ≤ 2 ^ k := by
  rcases Nat.lt_or_ge 2 n with hbig | hsmall
  · have hexp : n ≤ 2 ^ k → 1 ≤ k := fun hn =>
      Nat.one_le_iff_ne_zero.mpr fun hk => by subst hk; omega
    rw [indexWidth_of_two_lt hbig, countWidth_le_iff, and_iff_right_of_imp hexp]
    omega
  · have hfits : 1 ≤ k → n ≤ 2 ^ k := fun hk =>
      Nat.le_trans hsmall (Nat.pow_le_pow_right Nat.zero_lt_two hk)
    rw [indexWidth_of_le_two hsmall, and_iff_left_of_imp hfits]

/-- Settles O6: each width meets its condition because it is at most itself, and is the least to do so by the
converse of the same `↔`. -/
theorem registerWidthsAreLeast : Obligations.RegisterWidthsAreLeast := by
  unfold Obligations.RegisterWidthsAreLeast
  constructor
  · intro n
    exact ⟨(countWidth_le_iff n _).mp (Nat.le_refl _), fun k => (countWidth_le_iff n k).mpr⟩
  · intro n
    obtain ⟨hone, hfits⟩ := (indexWidth_le_iff n _).mp (Nat.le_refl _)
    exact ⟨hone, hfits, fun k hk hn => (indexWidth_le_iff n k).mpr ⟨hk, hn⟩⟩

end Sys2Proof.Machine

/-! ## What a command, a phase, a construction and a step leave unchanged (10_state.md R18 to R24)

Each lemma names the few fields an operation can write, as one equation between states, so that a statement about a
field is a projection of it. -/

namespace Sys2Proof.Machine

variable {s t : State}

/-- Two states that differ at most in what a command on the sequencer's port does besides its own effect: the walk of
`seq`, the operand latch, the accesses and draws, and the response. -/
def SameButPort (s t : State) : Prop :=
  t = { s with
    seq := t.seq, txByte := t.txByte, events := t.events, periph := t.periph, env := t.env
    seqRsp := t.seqRsp, seqLog := t.seqLog }

/-- Two states that differ at most in the FIFO block, the ports and what the host keeps. -/
def SameButHost (s t : State) : Prop :=
  t = { s with
    fifo := t.fifo, fifoRsp := t.fifoRsp, fifoLog := t.fifoLog, seqRsp := t.seqRsp
    inputs := t.inputs, hostLog := t.hostLog }

/-- What only a construction may write: the parameters, the identities of others and the two straps
(00_scope.md R7; 10_state.md R19, R20). -/
def State.latches (s : State) : Params × List CtrlId × Word32 × CtrlId := (s.cfg, s.othersLive, s.baud, s.ctrl)

theorem latches_eq_iff : t.latches = s.latches ↔
    t.cfg = s.cfg ∧ t.othersLive = s.othersLive ∧ t.baud = s.baud ∧ t.ctrl = s.ctrl := by
  simp only [State.latches, Prod.mk.injEq]

/-! The fields each relation keeps. -/

theorem SameButFifo.latches (h : SameButFifo s t) : t.latches = s.latches := by rw [h]; rfl
theorem SameButFifo.initialized (h : SameButFifo s t) : t.initialized = s.initialized := by rw [h]
theorem SameButFifo.rx (h : SameButFifo s t) : t.rx = s.rx := by rw [h]
theorem SameButFifo.alive (h : SameButFifo s t) : t.alive = s.alive := by rw [h]

theorem SameButRx.latches (h : SameButRx s t) : t.latches = s.latches := by rw [h]; rfl
theorem SameButRx.initialized (h : SameButRx s t) : t.initialized = s.initialized := by rw [h]
theorem SameButRx.alive (h : SameButRx s t) : t.alive = s.alive := by rw [h]

theorem SameButPort.latches (h : SameButPort s t) : t.latches = s.latches := by rw [h]; rfl
theorem SameButPort.initialized (h : SameButPort s t) : t.initialized = s.initialized := by rw [h]
theorem SameButPort.rx (h : SameButPort s t) : t.rx = s.rx := by rw [h]
theorem SameButPort.alive (h : SameButPort s t) : t.alive = s.alive := by rw [h]

theorem SameButHost.latches (h : SameButHost s t) : t.latches = s.latches := by rw [h]; rfl
theorem SameButHost.initialized (h : SameButHost s t) : t.initialized = s.initialized := by rw [h]
theorem SameButHost.alive (h : SameButHost s t) : t.alive = s.alive := by rw [h]

/-! The operations of the backend. -/

theorem bringUp_sameButPort (s : State) : SameButPort s s.bringUp := by
  cases hb : s.cfg.backend with
  | hardware =>
    rw [s.bringUp_hardware hb]
    rfl
  | mock =>
    rw [s.bringUp_mock hb]
    rfl

theorem pullByte_sameButRx (s : State) : SameButRx s (pullByte s) := by
  rcases pullByte_cases s with ⟨_, _, he⟩ | ⟨_, _, he⟩ | ⟨_, he⟩
  all_goals
    rw [he]
    rfl

theorem sendOrSpin_sameButPort (b : Byte) (s : State) : SameButPort s (sendOrSpin b s) := by
  rcases sendOrSpin_cases b s with ⟨_, _, he⟩ | ⟨_, _, he⟩ | ⟨_, he⟩
  all_goals
    rw [he]
    rfl

theorem enableTransport_sameButPort (s : State) : SameButPort s s.enableTransport := by
  rcases enableTransport_cases s with ⟨_, he⟩ | ⟨_, he⟩
  all_goals
    rw [he]
    rfl

theorem disableTransport_sameButPort (s : State) : SameButPort s s.disableTransport := by
  rcases disableTransport_cases s with ⟨_, he⟩ | ⟨_, he⟩
  all_goals
    rw [he]
    rfl

/-! A response is part of what `SameButPort` and `SameButRx` allow. -/

theorem SameButPort.respondSeq (h : SameButPort s t) (v : Nat) : SameButPort s (t.respondSeq v) := by
  unfold SameButPort at h ⊢
  rw [h]
  rfl

theorem SameButRx.respondSeq (h : SameButRx s t) (v : Nat) : SameButRx s (t.respondSeq v) := by
  unfold SameButRx at h ⊢
  rw [h]
  rfl

/-- BEGIN leaves `initialized` set, whichever of its two cases it takes (41_connection_ops.md R102). -/
theorem beginConnection_effect (h : beginConnection s = .next t) :
    SameButPort { s with initialized := true } t := by
  rcases beginConnection_next h with ⟨hi, rfl⟩ | ⟨_, _, rfl⟩
  · rw [SameButPort, ← hi]
  · unfold SameButPort
    rw [bringUp_sameButPort s]

/-- The fields each command can write: the commands fall into five groups. -/
theorem exec_effect {i : Instr} (h : exec i s = .next t) :
    (i.port = .fifo ∧ SameButFifo s t) ∨
    (i = .begin ∧ SameButPort { s with initialized := true } t) ∨
    ((i = .available ∨ i = .receive) ∧ SameButRx s t) ∨
    ((i = .isinit ∨ i = .enable ∨ i = .disable ∨ ∃ b, i = .send b) ∧ SameButPort s t) ∨
    (i = .destroy ∧ SameButPort { s with alive := false } t) := by
  rcases exec_next h with ⟨hp, f, v, rfl⟩ | ⟨_, ⟨rfl, u, hu, rfl⟩ | ⟨_, rfl | rfl | ⟨b, rfl⟩, rfl⟩ | ⟨rfl, _, rfl⟩ |
    ⟨_, b, rfl, rfl⟩ | ⟨rfl, _, rfl⟩ | ⟨rfl, rfl⟩ | ⟨rfl, rfl⟩ | ⟨rfl, rfl⟩ | ⟨rfl, rfl⟩⟩
  · exact .inl ⟨hp, rfl⟩
  · exact .inr (.inl ⟨rfl, (beginConnection_effect hu).respondSeq _⟩)
  · exact .inr (.inr (.inl ⟨.inl rfl, rfl⟩))
  · exact .inr (.inr (.inl ⟨.inr rfl, rfl⟩))
  · exact .inr (.inr (.inr (.inl ⟨.inr (.inr (.inr ⟨b, rfl⟩)), rfl⟩)))
  · exact .inr (.inr (.inl ⟨.inl rfl, (pullByte_sameButRx s).respondSeq _⟩))
  · exact .inr (.inr (.inr (.inl ⟨.inr (.inr (.inr ⟨b, rfl⟩)), sendOrSpin_sameButPort b s⟩)))
  · exact .inr (.inr (.inl ⟨.inr rfl, rfl⟩))
  · exact .inr (.inr (.inr (.inl ⟨.inl rfl, rfl⟩)))
  · exact .inr (.inr (.inr (.inl ⟨.inr (.inl rfl), (enableTransport_sameButPort s).respondSeq _⟩)))
  · exact .inr (.inr (.inr (.inl ⟨.inr (.inr (.inl rfl)), (disableTransport_sameButPort s).respondSeq _⟩)))
  · refine .inr (.inr (.inr (.inr ⟨rfl, ?_⟩)))
    unfold SameButPort
    rw [disableTransport_sameButPort s]
    rfl

/-- A phase writes `rx` and the port, and `initialized` only to set it (41_connection_ops.md R117). -/
theorem phase_effect (h : phase s = .next t) :
    ∃ ini f, (ini = s.initialized ∨ ini = true) ∧ SameButPort { s with initialized := ini, rx := f } t := by
  rcases phase_next h with ⟨_, rfl⟩ | ⟨_, rfl⟩ | ⟨_, rfl⟩ | ⟨_, rfl⟩ | ⟨_, rfl⟩ | ⟨_, _, rfl⟩ | ⟨_, rfl⟩ | ⟨_, rfl⟩ |
    ⟨_, rfl⟩ | ⟨_, rfl⟩ | ⟨_, _, rfl⟩ | ⟨_, _, rfl⟩ | ⟨_, rfl⟩ | ⟨_, _, rfl⟩ | ⟨_, _, rfl⟩ | ⟨_, rfl⟩
  any_goals exact ⟨_, _, .inl rfl, rfl⟩
  -- B_DONE, the one phase left
  exact ⟨true, _, .inr rfl, rfl⟩

/-- A construction gives a fresh connection, with `initialized` set by an eager BEGIN at most
(70_reset_and_hazards.md R192, R193). -/
theorem construct_effect {straps : Straps} (h : construct straps s = .next t) :
    ∃ c ini, SameButPort { s.freshConnection straps.baud c with initialized := ini } t := by
  obtain ⟨_, _, c, _, _, ⟨_, hb⟩ | ⟨_, rfl⟩⟩ := construct_next h
  · exact ⟨c, true, beginConnection_effect hb⟩
  · exact ⟨c, false, rfl⟩

/-! Which port a decoded command belongs to (30_encoding.md R60). -/

theorem noOperand_ok {op low : Nat} {i j : Instr} (h : noOperand op low i = .ok j) : j = i := by
  unfold noOperand at h
  split at h
  · cases h
    rfl
  · cases h

/-- A word of the FIFO's port decodes to a command of the FIFO. -/
theorem port_of_decode_fifo {w word : Nat} {i : Instr} (h : decode w .fifo word = .ok i) : i.port = .fifo := by
  simp only [decode, decodeFifo] at h
  split at h
  case h_1 =>
    cases h
    rfl
  case h_6 => cases h
  all_goals
    rw [noOperand_ok h]
    rfl

theorem quiet_sameButHost (s : State) : SameButHost s s.quiet := rfl

theorem quiet_pending_sameButHost (s : State) (l : List Input) : SameButHost s (s.quiet.pending l) := rfl

/-- The groups of steps that differ in what they can write. First the host and the FIFO's reset do their part, which
gives `u`; then comes a phase, a command of one of the two ports, a construction, or nothing. -/
theorem step_effect (h : step s = .next t) :
    ∃ u, SameButHost s u ∧
      (phase u = .next t ∨
      (∃ i, exec i u = .next t ∧
        (i.port = .fifo ∨ ∃ word, Takes s (.seqCmd word) ∧ decode s.cfg.w .seq word = .ok i)) ∨
      (ResetNext s ∧ ∃ straps, construct straps u = .next t) ∨
      t = u) := by
  rcases step_next h with ⟨h, _⟩ | ⟨rest, _, h⟩ | ⟨word, rest, i, _, hd, h⟩ | ⟨word, rest, i, hdue, _, hd, h⟩ |
    ⟨rest, _, h⟩ | ⟨straps, rest, hdue, h⟩ | ⟨p, rest, _, _, h⟩ | ⟨r, rest, _, _, h⟩
  · exact ⟨_, quiet_sameButHost s, .inl h⟩
  · exact ⟨_, quiet_pending_sameButHost s _, .inl h⟩
  · exact ⟨_, quiet_pending_sameButHost s _, .inr (.inl ⟨i, h, .inl (port_of_decode_fifo hd)⟩)⟩
  · exact ⟨_, quiet_pending_sameButHost s _, .inr (.inl ⟨i, h, .inr ⟨word, ⟨rest, hdue⟩, hd⟩⟩)⟩
  · obtain ⟨_, rfl⟩ := fifoConstruct_next h
    exact ⟨_, by rfl, .inr (.inr (.inr rfl))⟩
  · exact ⟨_, quiet_pending_sameButHost s _, .inr (.inr (.inl ⟨⟨straps, rest, hdue⟩, straps, h⟩))⟩
  · obtain ⟨_, commands, _, rfl⟩ := runPseudo_next h
    exact ⟨_, quiet_pending_sameButHost s _, .inr (.inr (.inr rfl))⟩
  · cases h
    exact ⟨_, by rfl, .inr (.inr (.inr rfl))⟩

/-! The single fields. -/

theorem exec_latches {i : Instr} (h : exec i s = .next t) : t.latches = s.latches := by
  rcases exec_effect h with ⟨_, e⟩ | ⟨_, e⟩ | ⟨_, e⟩ | ⟨_, e⟩ | ⟨_, e⟩
  all_goals exact e.latches

theorem phase_latches (h : phase s = .next t) : t.latches = s.latches := by
  obtain ⟨_, _, _, e⟩ := phase_effect h
  exact e.latches

theorem exec_alive {i : Instr} (h : exec i s = .next t) (hi : i ≠ .destroy) : t.alive = s.alive := by
  rcases exec_effect h with ⟨_, e⟩ | ⟨_, e⟩ | ⟨_, e⟩ | ⟨_, e⟩ | ⟨hd, _⟩
  case inr.inr.inr.inr => exact absurd hd hi
  all_goals exact e.alive

theorem exec_destroy_alive (h : exec .destroy s = .next t) : t.alive = false := by
  obtain ⟨_, h⟩ := ifAlive_next h
  cases h
  rfl

theorem phase_alive (h : phase s = .next t) : t.alive = s.alive := by
  obtain ⟨_, _, _, e⟩ := phase_effect h
  exact e.alive

/-- A construction writes its two straps, not the other latched fields. -/
theorem construct_latches {straps : Straps} (h : construct straps s = .next t) :
    t.cfg = s.cfg ∧ t.othersLive = s.othersLive := by
  obtain ⟨_, _, e⟩ := construct_effect h
  obtain ⟨hcfg, hothers, _⟩ := latches_eq_iff.mp e.latches
  exact ⟨hcfg, hothers⟩

theorem construct_alive {straps : Straps} (h : construct straps s = .next t) : t.alive = true := by
  obtain ⟨_, _, e⟩ := construct_effect h
  exact e.alive

theorem exec_begin_initialized (h : exec .begin s = .next t) : t.initialized = true := by
  obtain ⟨_, h⟩ := ifAlive_next h
  obtain ⟨u, hu, rfl⟩ := onNext_next h
  exact (beginConnection_effect hu).initialized

theorem exec_initialized {i : Instr} (h : exec i s = .next t) (hi : i ≠ .begin) :
    t.initialized = s.initialized := by
  rcases exec_effect h with ⟨_, e⟩ | ⟨hb, _⟩ | ⟨_, e⟩ | ⟨_, e⟩ | ⟨_, e⟩
  case inr.inl => exact absurd hb hi
  all_goals exact e.initialized

/-- No command clears `initialized` (R18). -/
theorem exec_keeps_initialized {i : Instr} (h : exec i s = .next t) (hi : s.initialized = true) :
    t.initialized = true := by
  by_cases hb : i = .begin
  · exact exec_begin_initialized (hb ▸ h)
  · rw [exec_initialized h hb, hi]

/-- No phase clears `initialized`. -/
theorem phase_keeps_initialized (h : phase s = .next t) (hi : s.initialized = true) : t.initialized = true := by
  obtain ⟨ini, _, hini, e⟩ := phase_effect h
  rw [show t.initialized = ini from e.initialized]
  exact hini.elim (fun h => h.trans hi) id

/-! ### The flags of a FIFO, the reset values, and what `alive`, `initialized`, the straps and `rx` change by -/

/-- Settles O17: the two flags are read off `count`, and no update of `rd` or `wr` reaches it (10_state.md R16). -/
theorem countAloneDecidesEmptyAndFull : Obligations.CountAloneDecidesEmptyAndFull := by
  unfold Obligations.CountAloneDecidesEmptyAndFull
  intro f n rd wr
  exact ⟨⟨f.empty_iff, f.full_iff n⟩, rfl, rfl⟩

/-- Settles O43: the reset state is made of the values R37 states. -/
theorem resetValuesOfTheSpec : Obligations.ResetValuesOfTheSpec := by
  unfold Obligations.ResetValuesOfTheSpec
  exact ⟨rfl, rfl, rfl, rfl, rfl, rfl, rfl, rfl, rfl, rfl, fun j => ⟨Fifo.fresh_stored j, Fifo.fresh_stored j⟩⟩

/-- Settles O39: of the groups of steps only a construction and DESTROY write `alive`. -/
theorem aliveFromResetToDestroy : Obligations.AliveFromResetToDestroy := by
  unfold Obligations.AliveFromResetToDestroy
  refine ⟨fun _ _ _ h => construct_alive h, ?_, ?_, ?_⟩
  · intro i s t h
    exact ⟨fun hi => exec_destroy_alive (hi ▸ h), exec_alive h⟩
  · intro s t h hne
    obtain ⟨u, hu, hp | ⟨i, he, hi⟩ | ⟨hr, _⟩ | rfl⟩ := step_effect h
    · exact absurd ((phase_alive hp).trans hu.alive) hne
    · have hd : i = .destroy :=
        Decidable.byContradiction fun hd => hne ((exec_alive he hd).trans hu.alive)
      subst hd
      exact .inr (hi.resolve_left (by decide))
    · exact .inl hr
    · exact absurd hu.alive hne
  · intro i s hp ha
    exact exec_refused.mpr ⟨hp, .inl ⟨ha, rfl⟩⟩

/-- Settles O46: BEGIN is the only command that writes `initialized`, and what writes it outside a construction sets
it. -/
theorem onlyBeginChangesTheInitializedFlag : Obligations.OnlyBeginChangesTheInitializedFlag := by
  unfold Obligations.OnlyBeginChangesTheInitializedFlag
  constructor
  · intro i s t h hne
    have hb : i = .begin := Decidable.byContradiction fun hb => hne (exec_initialized h hb)
    have ht : t.initialized = true := exec_begin_initialized (hb ▸ h)
    exact ⟨hb, by simpa [ht] using hne, ht⟩
  · intro s t h hr hi
    obtain ⟨u, hu, hp | ⟨i, he, _⟩ | ⟨hr', _⟩ | rfl⟩ := step_effect h
    · exact phase_keeps_initialized hp (hu.initialized.trans hi)
    · exact exec_keeps_initialized he (hu.initialized.trans hi)
    · exact absurd hr' hr
    · exact hu.initialized.trans hi

/-- Equal latches say what O47 does, whatever premise stands before the straps. -/
theorem latched_of_latches_eq {P : Prop} (h : t.latches = s.latches) :
    t.cfg = s.cfg ∧ t.othersLive = s.othersLive ∧ (P → t.baud = s.baud ∧ t.ctrl = s.ctrl) := by
  obtain ⟨hcfg, hothers, hstraps⟩ := latches_eq_iff.mp h
  exact ⟨hcfg, hothers, fun _ => hstraps⟩

/-- Settles O47: a construction writes two of the latched fields, every other step none. -/
theorem strapsAndParametersAreLatched : Obligations.StrapsAndParametersAreLatched := by
  unfold Obligations.StrapsAndParametersAreLatched
  intro s t h
  obtain ⟨u, hu, hp | ⟨i, he, _⟩ | ⟨hr, straps, hc⟩ | rfl⟩ := step_effect h
  · exact latched_of_latches_eq ((phase_latches hp).trans hu.latches)
  · exact latched_of_latches_eq ((exec_latches he).trans hu.latches)
  · obtain ⟨hcfg, hothers, _⟩ := latches_eq_iff.mp hu.latches
    obtain ⟨hcfg', hothers'⟩ := construct_latches hc
    exact ⟨hcfg'.trans hcfg, hothers'.trans hothers, fun hn => absurd hr hn⟩
  · exact latched_of_latches_eq hu.latches

/-- Settles O51: of the five groups of commands only that of AVAILABLE and RECEIVE writes `rx`. -/
theorem onlyAvailableAndReceiveTouchTheReceiveFifo : Obligations.OnlyAvailableAndReceiveTouchTheReceiveFifo := by
  unfold Obligations.OnlyAvailableAndReceiveTouchTheReceiveFifo
  intro i s t h hav hrec
  rcases exec_effect h with ⟨_, e⟩ | ⟨_, e⟩ | ⟨hi, _⟩ | ⟨_, e⟩ | ⟨_, e⟩
  case inr.inr.inl => exact (hi.elim hav hrec).elim
  all_goals exact e.rx

end Sys2Proof.Machine

/-! ## The invariant of the machine (10_state.md R14, R15, R19, R20, R34, R35)

One lemma for each elementary change that keeps `Inv`: a response, an update of one of the FIFOs, an access, a walk of
`seq`, the setting of `initialized`, a fresh connection. Commands, phases and resets are compositions of these. -/

namespace Sys2Proof.Machine

variable {s t : State}

/-! What fits the response ports (30_encoding.md R67). -/

theorem item_fits_fifoRsp {p : Params} {v : Nat} (h : v < 2 ^ p.w) : v < 2 ^ fifoRspWidth p :=
  Nat.lt_of_lt_of_le h (Nat.pow_le_pow_right Nat.two_pos (Nat.le_max_left p.w _))

theorem count_fits_fifoRsp {p : Params} {v : Nat} (h : v ≤ p.n) : v < 2 ^ fifoRspWidth p :=
  Nat.lt_of_le_of_lt h ((countWidth_le_iff p.n _).mp (Nat.le_max_right p.w _))

theorem byte_fits_seqRsp {p : Params} {v : Nat} (h : v < 2 ^ 8) : v < 2 ^ seqRspWidth p :=
  Nat.lt_of_lt_of_le h (Nat.pow_le_pow_right Nat.two_pos (Nat.le_max_left 8 _))

theorem count_fits_seqRsp {p : Params} {v : Nat} (h : v ≤ p.nRx) : v < 2 ^ seqRspWidth p :=
  Nat.lt_of_le_of_lt h ((countWidth_le_iff p.nRx _).mp (Nat.le_max_right 8 _))

theorem none_fits_seqRsp {p : Params} : rspNone < 2 ^ seqRspWidth p := Nat.two_pow_pos _

theorem bool_fits_seqRsp {p : Params} (b : Bool) : rspBool b < 2 ^ seqRspWidth p :=
  byte_fits_seqRsp (by cases b <;> decide)

theorem params_wf_iff (p : Params) :
    p.wf = true ↔ 1 ≤ p.n ∧ 1 ≤ p.nRx ∧ p.dflt < 2 ^ p.w ∧ 1 ≤ p.clkConst := by
  simp only [Params.wf, Bool.and_eq_true, decide_eq_true_eq, and_assoc]

theorem nRx_pos_of_wf {p : Params} (h : p.wf = true) : 0 < p.nRx := by
  obtain ⟨_, hrx, _, _⟩ := (params_wf_iff p).mp h
  exact hrx

/-! The elementary changes. -/

theorem Inv.quiet (h : Inv s) : Inv s.quiet := { h with }

theorem Inv.pending (h : Inv s) (l : List Input) : Inv (s.pending l) := { h with }

theorem Inv.respondFifo (h : Inv s) {v : Nat} (hv : v < 2 ^ fifoRspWidth s.cfg) : Inv (s.respondFifo v) :=
  { h with fifoFits := List.forall_mem_append.mpr ⟨h.fifoFits, List.forall_mem_singleton.mpr hv⟩ }

theorem Inv.respondSeq (h : Inv s) {v : Nat} (hv : v < 2 ^ seqRspWidth s.cfg) : Inv (s.respondSeq v) :=
  { h with seqFits := List.forall_mem_append.mpr ⟨h.seqFits, List.forall_mem_singleton.mpr hv⟩ }

theorem Inv.setFifo (h : Inv s) {f : Fifo Nat} (hf : FifoInv s.cfg.n (fun v => v < 2 ^ s.cfg.w) f) :
    Inv { s with fifo := f } :=
  { h with fifo := hf }

/-- Nothing is buffered in `rx` before the flag is set, so only an initialized connection may change it freely. -/
theorem Inv.setRx (h : Inv s) (hi : s.initialized = true) {f : Fifo Byte}
    (hf : FifoInv s.cfg.nRx (fun _ => True) f) : Inv { s with rx := f } :=
  { h with
    rx := hf
    empty := fun hn => absurd (hi.symm.trans hn) (by decide) }

/-- A byte staged in `rx` on an initialized connection. -/
theorem Inv.stage (h : Inv s) (hi : s.initialized = true) (b : Byte) : Inv (s.stage b) :=
  h.setRx hi (h.rx.push b trivial)

/-- Events of the connection's own, on hardware, none of which comes between a poll and the phase it lets go on. -/
theorem Inv.appendEvents (h : Inv s) (hb : s.cfg.backend = .hardware) (ha : s.seq.after s.ctrl = none)
    {l : List Event} (hc : ∀ e, e ∈ l → e.c = s.ctrl) (hp : Polled (s.events ++ l)) :
    Inv { s with events := s.events ++ l } :=
  { h with
    after := fun e he => by
      rw [show s.seq.after s.ctrl = some e from he] at ha
      cases ha
    mock := fun hm => by
      rw [show s.cfg.backend = .mock from hm] at hb
      cases hb
    polled := hp
    own := List.forall_mem_append.mpr ⟨h.own, hc⟩ }

/-- One access of the connection, after the poll it needs. -/
theorem Inv.appendEvent (h : Inv s) (hb : s.cfg.backend = .hardware) (ha : s.seq.after s.ctrl = none)
    {e : Event} (hc : e.c = s.ctrl) (hp : ∀ p, pollBefore e = some p → s.events.getLast? = some p) :
    Inv { s with events := s.events ++ [e] } :=
  h.appendEvents hb ha (List.forall_mem_singleton.mpr hc) (polled_snoc h.polled hp)

theorem Inv.periphWrite (h : Inv s) (hb : s.cfg.backend = .hardware) (ha : s.seq.after s.ctrl = none) {v : PVal}
    (hp : ∀ p, pollBefore ⟨.write, s.ctrl, regOf v, v⟩ = some p → s.events.getLast? = some p) :
    Inv (s.periphWrite v) :=
  { h.appendEvent hb ha rfl hp with }

theorem Inv.periphRead (h : Inv s) (hb : s.cfg.backend = .hardware) (ha : s.seq.after s.ctrl = none) {v : PVal}
    (hp : ∀ p, pollBefore ⟨.read, s.ctrl, regOf v, v⟩ = some p → s.events.getLast? = some p) :
    Inv (s.periphRead v) :=
  { h.appendEvent hb ha rfl hp with }

/-- The walk of `seq` to a phase whose conditions hold. -/
theorem Inv.goto (h : Inv s) {p : Phase}
    (hf : p ≠ .idle → s.alive = true ∧ s.cfg.backend = .hardware ∧ s.initialized = !p.bringingUp)
    (ha : ∀ e, p.after s.ctrl = some e → s.events.getLast? = some e) : Inv (s.goto p) :=
  { h with flight := hf, after := ha }

theorem Inv.goto_idle (h : Inv s) : Inv (s.goto .idle) :=
  h.goto (fun hn => absurd rfl hn) (fun _ he => by cases he)

/-- Setting the flag while no command is in flight. -/
theorem Inv.setInitialized (h : Inv s) (hs : s.seq = .idle) : Inv { s with initialized := true } :=
  { h with
    empty := fun hn => by cases hn
    flight := fun hn => absurd hs hn }

/-- Destroying the connection while no command is in flight. -/
theorem Inv.clearAlive (h : Inv s) (hs : s.seq = .idle) : Inv { s with alive := false } :=
  { h with
    unshared := fun hn => by cases hn
    flight := fun hn => absurd hs hn }

/-- A fresh connection needs the FIFO block's part of the invariant only: it replaces everything else. -/
theorem inv_freshConnection (hcfg : s.cfg.wf = true) (hfifo : FifoInv s.cfg.n (fun v => v < 2 ^ s.cfg.w) s.fifo)
    (hlog : ∀ v, v ∈ s.fifoLog → v < 2 ^ fifoRspWidth s.cfg) {baud : Word32} (hbaud : baud ≠ 0#32) {c : CtrlId}
    (hc : c ∉ s.othersLive) : Inv (s.freshConnection baud c) where
  cfg := hcfg
  fifo := hfifo
  rx := FifoInv.fresh (nRx_pos_of_wf hcfg)
  baud := hbaud
  unshared := fun _ => hc
  empty := fun _ => rfl
  flight := fun hn => absurd rfl hn
  after := fun _ he => by cases he
  mock := fun _ => rfl
  polled := polled_nil
  own := fun _ he => by cases he
  fifoFits := hlog
  seqFits := fun _ hv => by cases hv

theorem Inv.freshFifo (h : Inv s) (hn : s.cfg.n ≠ 0) :
    Inv { s with fifo := Fifo.fresh, fifoRsp := none, fifoLog := [] } :=
  { h with
    fifo := FifoInv.fresh (Nat.pos_of_ne_zero hn)
    fifoFits := fun _ hv => by cases hv }

/-! The accesses, each with the poll it needs. -/

/-- Every write but that of `THR` needs no poll. -/
theorem Inv.periphWrite_unpolled (h : Inv s) (hb : s.cfg.backend = .hardware) (ha : s.seq.after s.ctrl = none)
    {v : PVal} (hv : pollBefore ⟨.write, s.ctrl, regOf v, v⟩ = none) : Inv (s.periphWrite v) :=
  h.periphWrite hb ha (fun p hp => by
    rw [hv] at hp
    cases hp)

theorem Inv.srReadTx (h : Inv s) (hb : s.cfg.backend = .hardware) (ha : s.seq.after s.ctrl = none) :
    Inv s.srReadTx :=
  h.periphRead hb ha (fun _ hp => by cases hp)

theorem Inv.srReadRx (h : Inv s) (hb : s.cfg.backend = .hardware) (ha : s.seq.after s.ctrl = none) :
    Inv s.srReadRx :=
  h.periphRead hb ha (fun _ hp => by cases hp)

/-- The successful poll of `TXRDY` (10_state.md R34). -/
def txReady (c : CtrlId) : Event := { dir := .read, c := c, reg := .sr, value := .txrdy true }

/-- The successful poll of `RXRDY` (10_state.md R35). -/
def rxReady (c : CtrlId) : Event := { dir := .read, c := c, reg := .sr, value := .rxrdy true }

theorem srReadTx_getLast (hf : s.drawnFlag = true) : s.srReadTx.events.getLast? = some (txReady s.ctrl) := by
  simp [State.srReadTx, hf, txReady, regOf]

theorem srReadRx_getLast (hf : s.drawnFlag = true) : s.srReadRx.events.getLast? = some (rxReady s.ctrl) := by
  simp [State.srReadRx, hf, rxReady, regOf]

theorem Inv.thrWrite (h : Inv s) (hb : s.cfg.backend = .hardware) (ha : s.seq.after s.ctrl = none)
    (hl : s.events.getLast? = some (txReady s.ctrl)) (b : Byte) : Inv (s.thrWrite b) :=
  h.periphWrite hb ha (fun p hp => by
    cases hp
    exact hl)

theorem Inv.rhrRead (h : Inv s) (hb : s.cfg.backend = .hardware) (ha : s.seq.after s.ctrl = none)
    (hl : s.events.getLast? = some (rxReady s.ctrl)) : Inv s.rhrRead :=
  h.periphRead hb ha (fun p hp => by
    cases hp
    exact hl)

/-! The commands. -/

/-- No phase stands after a poll while no command is in flight. -/
theorem after_of_idle (hs : s.seq = .idle) : s.seq.after s.ctrl = none := by rw [hs]; rfl

theorem bringUpEvents_unpolled {alt c : CtrlId} {div : Nat} {e : Event} (h : e ∈ bringUpEvents alt c div) :
    pollBefore e = none := by
  simp only [bringUpEvents, List.mem_cons, List.not_mem_nil, or_false] at h
  rcases h with rfl | rfl | rfl | rfl | rfl | rfl | rfl | rfl
  all_goals rfl

theorem Inv.bringUp (h : Inv s) (hs : s.seq = .idle) : Inv s.bringUp := by
  cases hb : s.cfg.backend with
  | hardware =>
    rw [s.bringUp_hardware hb]
    exact { h.appendEvents hb (after_of_idle hs) (fun e he => (bringUpEvents_own he).1)
      (polled_append h.polled fun e he => bringUpEvents_unpolled he) with }
  | mock =>
    rw [s.bringUp_mock hb]
    exact h

theorem bringUp_seq (s : State) : s.bringUp.seq = s.seq := by
  cases hb : s.cfg.backend with
  | hardware => rw [s.bringUp_hardware hb]
  | mock => rw [s.bringUp_mock hb]

theorem Inv.of_beginConnection (h : Inv s) (hs : s.seq = .idle) (ht : beginConnection s = .next t) : Inv t := by
  rcases beginConnection_next ht with ⟨_, rfl⟩ | ⟨_, _, rfl⟩
  · exact h
  · exact (h.bringUp hs).setInitialized ((bringUp_seq s).trans hs)

theorem Inv.enableTransport (h : Inv s) (hs : s.seq = .idle) : Inv s.enableTransport := by
  rcases enableTransport_cases s with ⟨hb, he⟩ | ⟨_, he⟩
  · rw [he]
    exact h.periphWrite_unpolled hb (after_of_idle hs) rfl
  · rw [he]
    exact h

theorem disableTransport_seq (s : State) : s.disableTransport.seq = s.seq := by
  rcases disableTransport_cases s with ⟨_, he⟩ | ⟨_, he⟩
  · rw [he]
    rfl
  · rw [he]

theorem Inv.disableTransport (h : Inv s) (hs : s.seq = .idle) : Inv s.disableTransport := by
  rcases disableTransport_cases s with ⟨hb, he⟩ | ⟨_, he⟩
  · rw [he]
    exact h.periphWrite_unpolled hb (after_of_idle hs) rfl
  · rw [he]
    exact h

theorem Inv.pulledByte (h : Inv s) (hs : s.seq = .idle) (hi : s.initialized = true) : Inv (pullByte s) := by
  have ha := after_of_idle hs
  rcases pullByte_cases s with ⟨hb, _, he⟩ | ⟨hb, hf, he⟩ | ⟨_, he⟩
  · rw [he]
    exact h.srReadRx hb ha
  · rw [he]
    exact ((h.srReadRx hb ha).rhrRead hb ha (srReadRx_getLast hf)).stage hi _
  · rw [he]
    exact h.stage hi _

/-- A SEND on an initialized connection; only one on hardware can stay in flight. -/
theorem Inv.sentOrSpun (h : Inv s) (hs : s.seq = .idle) (hi : s.initialized = true) (hal : s.alive = true)
    (b : Byte) : Inv (sendOrSpin b s) := by
  have ha := after_of_idle hs
  rcases sendOrSpin_cases b s with ⟨hb, _, he⟩ | ⟨hb, hf, he⟩ | ⟨_, he⟩
  · rw [he]
    have hpoll : Inv (s.srReadTx.goto .sPoll) :=
      (h.srReadTx hb ha).goto (fun _ => ⟨hal, hb, hi⟩) (fun _ he => by cases he)
    exact { hpoll with }
  · rw [he]
    exact ((h.srReadTx hb ha).thrWrite hb ha (srReadTx_getLast hf) b).respondSeq (bool_fits_seqRsp true)
  · rw [he]
    exact h.respondSeq (bool_fits_seqRsp true)

theorem itemOperand_lt (w item : Nat) : itemOperand w item < 2 ^ w := Nat.mod_lt _ (Nat.two_pow_pos w)

/-- The item POP and PEEK answer fits the port. -/
theorem Inv.fifoHead_fits (h : Inv s) : s.fifoHead < 2 ^ fifoRspWidth s.cfg := by
  obtain ⟨_, _, hdflt, _⟩ := (params_wf_iff s.cfg).mp h.cfg
  exact item_fits_fifoRsp (h.fifo.head_fits _ _ hdflt)

/-- A command of the FIFO keeps the invariant, whatever the sequencer is doing. -/
theorem Inv.of_exec_fifo {i : Instr} (h : Inv s) (hp : i.port = .fifo) (ht : exec i s = .next t) : Inv t := by
  have hnone : rspNone < 2 ^ fifoRspWidth s.cfg := Nat.two_pow_pos _
  cases i with
  | push item =>
    cases ht
    exact (h.setFifo (h.fifo.push _ (itemOperand_lt _ item))).respondFifo hnone
  | pop =>
    cases ht
    exact (h.setFifo h.fifo.drop).respondFifo h.fifoHead_fits
  | peek =>
    cases ht
    exact h.respondFifo h.fifoHead_fits
  | clear =>
    cases ht
    exact (h.setFifo h.fifo.cleared).respondFifo hnone
  | count =>
    cases ht
    exact h.respondFifo (count_fits_fifoRsp h.fifo.count)
  | begin | available | send _ | receive | isinit | enable | disable | destroy => cases hp

/-- Every command keeps the invariant when none is in flight. -/
theorem Inv.of_exec {i : Instr} (h : Inv s) (hs : s.seq = .idle) (ht : exec i s = .next t) : Inv t := by
  rcases exec_next ht with ⟨hp, _⟩ | ⟨hal, ⟨rfl, u, hu, rfl⟩ | ⟨_, _, rfl⟩ | ⟨rfl, hi, rfl⟩ | ⟨hi, b, rfl, rfl⟩ |
    ⟨rfl, hi, rfl⟩ | ⟨rfl, rfl⟩ | ⟨rfl, rfl⟩ | ⟨rfl, rfl⟩ | ⟨rfl, rfl⟩⟩
  · exact h.of_exec_fifo hp ht
  · exact (h.of_beginConnection hs hu).respondSeq none_fits_seqRsp
  · exact h.respondSeq none_fits_seqRsp
  · have hpull := h.pulledByte hs hi
    exact hpull.respondSeq (count_fits_seqRsp hpull.rx.count)
  · exact h.sentOrSpun hs hi hal b
  · exact (h.setRx hi h.rx.drop).respondSeq (byte_fits_seqRsp s.rxHead.isLt)
  · exact h.respondSeq (bool_fits_seqRsp _)
  · exact (h.enableTransport hs).respondSeq none_fits_seqRsp
  · exact (h.disableTransport hs).respondSeq none_fits_seqRsp
  · have hidle : s.disableTransport.seq = .idle := (disableTransport_seq s).trans hs
    exact ((h.disableTransport hs).clearAlive hidle).respondSeq none_fits_seqRsp

/-! The phases (41_connection_ops.md R117). -/

theorem after_of_bringingUp {p : Phase} (c : CtrlId) (hp : p.bringingUp = true) : p.after c = none := by
  cases p with
  | sWrite | aRead => cases hp
  | _ => rfl

/-- The invariant's clause on a command in flight, for a phase that is named. -/
theorem Inv.flight_at (h : Inv s) {p : Phase} (hs : s.seq = p) (hp : p ≠ .idle) :
    s.alive = true ∧ s.cfg.backend = .hardware ∧ s.initialized = !p.bringingUp := by
  subst hs
  exact h.flight hp

/-- A phase of the bring-up that makes one write and goes on with the next. -/
theorem Inv.bringUpPhase (h : Inv s) {p q : Phase} (hs : s.seq = p) (hp : p.bringingUp = true)
    (hq : q.bringingUp = true) {v : PVal} (hv : pollBefore ⟨.write, s.ctrl, regOf v, v⟩ = none) :
    Inv ((s.periphWrite v).goto q) := by
  have hne : p ≠ .idle := by
    rintro rfl
    cases hp
  obtain ⟨hal, hb, hi⟩ := h.flight_at hs hne
  have ha : s.seq.after s.ctrl = none := by rw [hs, after_of_bringingUp _ hp]
  refine (h.periphWrite_unpolled hb ha hv).goto (fun _ => ⟨hal, hb, ?_⟩) (fun e he => ?_)
  · rw [hq, ← hp]
    exact hi
  · rw [after_of_bringingUp _ hq] at he
    cases he

/-- A poll of `TXRDY` that answers 0 polls again. -/
theorem Inv.sPollPhase_busy (h : Inv s) (hs : s.seq = .sPoll) : Inv (s.srReadTx.goto .sPoll) := by
  obtain ⟨hal, hb, hi⟩ := h.flight_at hs (by decide)
  exact (h.srReadTx hb (by rw [hs]; rfl)).goto (fun _ => ⟨hal, hb, hi⟩) (fun _ he => by cases he)

/-- A poll of `TXRDY` that answers 1 goes on to the write. -/
theorem Inv.sPollPhase_ready (h : Inv s) (hs : s.seq = .sPoll) (hf : s.drawnFlag = true) :
    Inv (s.srReadTx.goto .sWrite) := by
  obtain ⟨hal, hb, hi⟩ := h.flight_at hs (by decide)
  refine (h.srReadTx hb (by rw [hs]; rfl)).goto (fun _ => ⟨hal, hb, hi⟩) (fun e he => ?_)
  cases he
  exact srReadTx_getLast hf

/-- The write of `THR` right after the poll (10_state.md R34). -/
theorem Inv.sWritePhase (h : Inv s) (hs : s.seq = .sWrite) :
    Inv ((s.thrWrite s.txByte).finish (rspBool true)) := by
  obtain ⟨_, hb, _⟩ := h.flight_at hs (by decide)
  have hl : s.events.getLast? = some (txReady s.ctrl) := h.after _ (by rw [hs]; rfl)
  exact (h.goto_idle.thrWrite hb rfl hl s.txByte).respondSeq (bool_fits_seqRsp true)

/-- The poll of `RXRDY` that finds no byte ends the command. -/
theorem Inv.aPollPhase_empty (h : Inv s) (hs : s.seq = .aPoll) :
    Inv (s.srReadRx.finish (rspCount s.rx.count)) := by
  obtain ⟨_, hb, _⟩ := h.flight_at hs (by decide)
  exact (h.goto_idle.srReadRx hb rfl).respondSeq (count_fits_seqRsp h.rx.count)

/-- The poll of `RXRDY` that finds a byte goes on to read it. -/
theorem Inv.aPollPhase_ready (h : Inv s) (hs : s.seq = .aPoll) (hf : s.drawnFlag = true) :
    Inv (s.srReadRx.goto .aRead) := by
  obtain ⟨hal, hb, hi⟩ := h.flight_at hs (by decide)
  refine (h.srReadRx hb (by rw [hs]; rfl)).goto (fun _ => ⟨hal, hb, hi⟩) (fun e he => ?_)
  cases he
  exact srReadRx_getLast hf

/-- The read of `RHR` right after the poll (10_state.md R35), and the byte put in `rx`. -/
theorem Inv.aReadPhase (h : Inv s) (hs : s.seq = .aRead) :
    Inv ((s.rhrRead.stage s.env.value).finish (rspCount (s.rx.push s.cfg.nRx s.env.value).count)) := by
  obtain ⟨_, hb, hi⟩ := h.flight_at hs (by decide)
  have hl : s.events.getLast? = some (rxReady s.ctrl) := h.after _ (by rw [hs]; rfl)
  have hstage : Inv ((s.goto .idle).rhrRead.stage s.env.value) := (h.goto_idle.rhrRead hb rfl hl).stage hi _
  exact hstage.respondSeq (count_fits_seqRsp hstage.rx.count)

/-- Every phase of a command in flight keeps the invariant. -/
theorem Inv.of_phase (h : Inv s) (ht : phase s = .next t) : Inv t := by
  rcases phase_next ht with ⟨_, rfl⟩ | ⟨hs, rfl⟩ | ⟨hs, rfl⟩ | ⟨hs, rfl⟩ | ⟨hs, rfl⟩ | ⟨hs, _, rfl⟩ | ⟨hs, rfl⟩ |
    ⟨hs, rfl⟩ | ⟨hs, rfl⟩ | ⟨_, rfl⟩ | ⟨hs, hf, rfl⟩ | ⟨hs, hf, rfl⟩ | ⟨hs, rfl⟩ | ⟨hs, _, rfl⟩ | ⟨hs, hf, rfl⟩ |
    ⟨hs, rfl⟩
  · exact h
  · exact h.bringUpPhase hs rfl rfl rfl
  · exact h.bringUpPhase hs rfl rfl rfl
  · exact h.bringUpPhase hs rfl rfl rfl
  · exact h.bringUpPhase hs rfl rfl rfl
  · exact h.bringUpPhase hs rfl rfl rfl
  · exact h.bringUpPhase hs rfl rfl rfl
  · exact h.bringUpPhase hs rfl rfl rfl
  · exact h.bringUpPhase hs rfl rfl rfl
  · exact (h.goto_idle.setInitialized rfl).respondSeq none_fits_seqRsp
  · exact h.sPollPhase_busy hs
  · exact h.sPollPhase_ready hs hf
  · exact h.sWritePhase hs
  · exact h.aPollPhase_empty hs
  · exact h.aPollPhase_ready hs hf
  · exact h.aReadPhase hs

/-! Reset, and the whole step. -/

/-- A construction keeps the invariant: what it keeps of the state is the FIFO block, and an eager BEGIN runs on the
fresh connection (70_reset_and_hazards.md R192, R193). -/
theorem Inv.of_construct {straps : Straps} (h : Inv s) (ht : construct straps s = .next t) : Inv t := by
  obtain ⟨hbaud, _, c, _, hc, hcases⟩ := construct_next ht
  have hfresh : Inv (s.freshConnection straps.baud c) := inv_freshConnection h.cfg h.fifo h.fifoFits hbaud hc
  rcases hcases with ⟨_, hbegin⟩ | ⟨_, rfl⟩
  · exact hfresh.of_beginConnection rfl hbegin
  · exact hfresh

theorem config_params_wf : Config.params.wf = true :=
  (params_wf_iff _).mpr ⟨Nat.succ_pos _, Nat.succ_pos _, by decide, Nat.succ_pos _⟩

/-- Settles O44: the reset state is a fresh connection beside a fresh FIFO. -/
theorem resetStateHasTheInvariant : Obligations.ResetStateHasTheInvariant := by
  unfold Obligations.ResetStateHasTheInvariant
  exact inv_freshConnection (s := State.reset) config_params_wf (FifoInv.fresh (Nat.succ_pos _))
    (fun _ hv => by cases hv) (by decide) (fun hc => by cases hc)

/-- Settles O45: whatever the step takes, it is a composition of changes that keep the invariant. -/
theorem everyStepKeepsTheInvariant : Obligations.EveryStepKeepsTheInvariant := by
  unfold Obligations.EveryStepKeepsTheInvariant
  intro s t h ht
  rcases step_next ht with ⟨hp, _⟩ | ⟨rest, _, hp⟩ | ⟨_, rest, i, _, hd, he⟩ | ⟨_, rest, i, _, hs, _, he⟩ |
    ⟨rest, _, hf⟩ | ⟨straps, rest, _, hc⟩ | ⟨p, rest, _, _, hp⟩ | ⟨r, rest, _, _, hr⟩
  · exact h.quiet.of_phase hp
  · exact (h.quiet.pending _).of_phase hp
  · exact (h.quiet.pending _).of_exec_fifo (port_of_decode_fifo hd) he
  · exact (h.quiet.pending rest).of_exec hs he
  · obtain ⟨hn, rfl⟩ := fifoConstruct_next hf
    exact (h.quiet.pending _).freshFifo hn
  · exact (h.quiet.pending rest).of_construct hc
  · obtain ⟨_, _, _, rfl⟩ := runPseudo_next hp
    exact h.quiet.pending _
  · cases hr
    exact { h.quiet.pending rest with }

end Sys2Proof.Machine

/-! ## What reaches the history and `THR` (20_memory.md R55, R56; 10_state.md R20)

One relation says what a command, a phase and a step do to the event history and to the operand latch; both statements
are read off it. -/

namespace Sys2Proof.Machine

variable {s t u : State} {sent sent' : Byte → Prop}

/-- From `s` to `t` the identity stays, the history only grows by accesses of that identity, and every byte that is
handed to `THR` or put in the latch `txByte` is one that `sent` allows. -/
structure TransmitsOnly (sent : Byte → Prop) (s t : State) : Prop where
  ctrl : t.ctrl = s.ctrl
  latch : t.txByte ≠ s.txByte → sent t.txByte
  history : ∃ l, t.events = s.events ++ l ∧ ∀ e ∈ l, e.c = s.ctrl ∧ ∀ b, e.value = .txchr b → sent b

theorem TransmitsOnly.refl (s : State) : TransmitsOnly sent s s :=
  ⟨rfl, fun hne => absurd rfl hne, [], by simp⟩

theorem TransmitsOnly.mono (h : TransmitsOnly sent s t) (hsent : ∀ b, sent b → sent' b) : TransmitsOnly sent' s t := by
  obtain ⟨hc, hb, l, hl, hown⟩ := h
  exact ⟨hc, fun hne => hsent _ (hb hne), l, hl, fun e he => ⟨(hown e he).1, fun b hv => hsent b ((hown e he).2 b hv)⟩⟩

theorem TransmitsOnly.trans (h : TransmitsOnly sent s u) (h' : TransmitsOnly sent u t) : TransmitsOnly sent s t := by
  obtain ⟨hc, hb, l, hl, hown⟩ := h
  obtain ⟨hc', hb', l', hl', hown'⟩ := h'
  refine ⟨hc'.trans hc, fun hne => ?_, l ++ l', by rw [hl', hl, List.append_assoc], fun e he => ?_⟩
  · by_cases heq : t.txByte = u.txByte
    · rw [heq] at hne ⊢
      exact hb hne
    · exact hb' heq
  · rcases List.mem_append.mp he with he | he
    · exact hown e he
    · rw [← hc]
      exact hown' e he

/-- What was appended is determined by the two states, so it is what `TransmitsOnly` speaks of. -/
theorem TransmitsOnly.appended (h : TransmitsOnly sent s t) {l : List Event} (hl : t.events = s.events ++ l)
    {e : Event} (he : e ∈ l) {b : Byte} (hv : e.value = .txchr b) : sent b := by
  obtain ⟨l', hl', hown⟩ := h.history
  obtain rfl : l = l' := List.append_cancel_left (hl.symm.trans hl')
  exact (hown e he).2 b hv

theorem TransmitsOnly.of_sameButHost (h : SameButHost s t) : TransmitsOnly sent s t := by
  rw [h]
  exact { TransmitsOnly.refl s with }

/-! The accesses and the operations of the backend. -/

theorem transmitsOnly_periphWrite (s : State) {v : PVal} (hv : ∀ b, v = .txchr b → sent b) :
    TransmitsOnly sent s (s.periphWrite v) :=
  { TransmitsOnly.refl s with
    history := ⟨_, s.periphWrite_events v, fun e he => by
      obtain rfl := List.mem_singleton.mp he
      exact ⟨rfl, hv⟩⟩ }

theorem transmitsOnly_periphRead (s : State) {v : PVal} (hv : ∀ b, v ≠ .txchr b) :
    TransmitsOnly sent s (s.periphRead v) :=
  { TransmitsOnly.refl s with
    history := ⟨_, s.periphRead_events v, fun e he => by
      obtain rfl := List.mem_singleton.mp he
      exact ⟨rfl, fun b hb => absurd hb (hv b)⟩⟩ }

theorem transmitsOnly_srReadTx (s : State) : TransmitsOnly sent s s.srReadTx :=
  transmitsOnly_periphRead s (fun _ hb => by cases hb)

theorem transmitsOnly_srReadRx (s : State) : TransmitsOnly sent s s.srReadRx :=
  transmitsOnly_periphRead s (fun _ hb => by cases hb)

theorem transmitsOnly_rhrRead (s : State) : TransmitsOnly sent s s.rhrRead :=
  transmitsOnly_periphRead s (fun _ hb => by cases hb)

/-- The one access that hands a byte to `THR`. -/
theorem transmitsOnly_thrWrite (s : State) {b : Byte} (hb : sent b) : TransmitsOnly sent s (s.thrWrite b) :=
  transmitsOnly_periphWrite s (fun _ h => by
    cases h
    exact hb)

theorem transmitsOnly_bringUp (s : State) : TransmitsOnly sent s s.bringUp := by
  cases hb : s.cfg.backend with
  | hardware =>
    rw [s.bringUp_hardware hb]
    refine { TransmitsOnly.refl s with history := ⟨_, rfl, fun e he => ?_⟩ }
    obtain ⟨hown, hthr⟩ := bringUpEvents_own he
    exact ⟨hown, fun b hv => absurd hv (hthr b)⟩
  | mock =>
    rw [s.bringUp_mock hb]
    exact .refl s

theorem transmitsOnly_beginConnection (h : beginConnection s = .next t) : TransmitsOnly sent s t := by
  rcases beginConnection_next h with ⟨_, rfl⟩ | ⟨_, _, rfl⟩
  · exact .refl _
  · exact { transmitsOnly_bringUp s with }

theorem transmitsOnly_enableTransport (s : State) : TransmitsOnly sent s s.enableTransport := by
  rcases enableTransport_cases s with ⟨_, he⟩ | ⟨_, he⟩
  · rw [he]
    exact transmitsOnly_periphWrite s (fun _ hb => by cases hb)
  · rw [he]
    exact .refl s

theorem transmitsOnly_disableTransport (s : State) : TransmitsOnly sent s s.disableTransport := by
  rcases disableTransport_cases s with ⟨_, he⟩ | ⟨_, he⟩
  · rw [he]
    exact transmitsOnly_periphWrite s (fun _ hb => by cases hb)
  · rw [he]
    exact .refl s

theorem transmitsOnly_pullByte (s : State) : TransmitsOnly sent s (pullByte s) := by
  rcases pullByte_cases s with ⟨_, _, he⟩ | ⟨_, _, he⟩ | ⟨_, he⟩
  · rw [he]
    exact transmitsOnly_srReadRx s
  · rw [he]
    exact { (transmitsOnly_srReadRx s).trans (transmitsOnly_rhrRead s.srReadRx) with }
  · rw [he]
    exact { TransmitsOnly.refl s with }

/-- SEND hands its operand to `THR`, or latches it, and no other byte (41_connection_ops.md R104). -/
theorem transmitsOnly_sendOrSpin (s : State) {b : Byte} (hb : sent b) : TransmitsOnly sent s (sendOrSpin b s) := by
  rcases sendOrSpin_cases b s with ⟨_, _, he⟩ | ⟨_, _, he⟩ | ⟨_, he⟩
  · rw [he]
    exact { transmitsOnly_srReadTx s with latch := fun _ => hb }
  · rw [he]
    exact { (transmitsOnly_srReadTx s).trans (transmitsOnly_thrWrite s.srReadTx hb) with }
  · rw [he]
    exact { TransmitsOnly.refl s with }

/-! A command, a phase, a construction and a step. -/

/-- The only byte a command transmits is the operand of SEND. -/
theorem transmitsOnly_exec {i : Instr} (h : exec i s = .next t) : TransmitsOnly (fun b => i = .send b) s t := by
  rcases exec_next h with ⟨_, f, v, rfl⟩ | ⟨_, ⟨_, u, hu, rfl⟩ | ⟨_, _, rfl⟩ | ⟨_, _, rfl⟩ | ⟨_, b, hb, rfl⟩ |
    ⟨_, _, rfl⟩ | ⟨_, rfl⟩ | ⟨_, rfl⟩ | ⟨_, rfl⟩ | ⟨_, rfl⟩⟩
  · exact { TransmitsOnly.refl s with }
  · exact { transmitsOnly_beginConnection hu with }
  · exact { TransmitsOnly.refl s with }
  · exact { transmitsOnly_pullByte s with }
  · exact transmitsOnly_sendOrSpin s hb
  · exact { TransmitsOnly.refl s with }
  · exact { TransmitsOnly.refl s with }
  · exact { transmitsOnly_enableTransport s with }
  · exact { transmitsOnly_disableTransport s with }
  · exact { transmitsOnly_disableTransport s with }

/-- The phase S_WRITE is about to hand the latched byte `b` to `THR` (41_connection_ops.md R117). -/
def WritesLatched (s : State) (b : Byte) : Prop := s.seq = .sWrite ∧ s.txByte = b

/-- A phase of the bring-up makes one write, and not of `THR`. -/
theorem transmitsOnly_writePhase (s : State) (p : Phase) {v : PVal} (hv : ∀ b, v ≠ .txchr b) :
    TransmitsOnly sent s ((s.periphWrite v).goto p) :=
  { transmitsOnly_periphWrite s (fun b hb => absurd hb (hv b)) with }

/-- The only byte a phase transmits is the latched one, in S_WRITE. -/
theorem transmitsOnly_phase (h : phase s = .next t) : TransmitsOnly (WritesLatched s) s t := by
  rcases phase_next h with ⟨_, rfl⟩ | ⟨_, rfl⟩ | ⟨_, rfl⟩ | ⟨_, rfl⟩ | ⟨_, rfl⟩ | ⟨_, _, rfl⟩ | ⟨_, rfl⟩ | ⟨_, rfl⟩ |
    ⟨_, rfl⟩ | ⟨_, rfl⟩ | ⟨_, _, rfl⟩ | ⟨_, _, rfl⟩ | ⟨hs, rfl⟩ | ⟨_, _, rfl⟩ | ⟨_, _, rfl⟩ | ⟨_, rfl⟩
  · exact .refl _
  · exact transmitsOnly_writePhase s _ (fun _ hb => by cases hb)
  · exact transmitsOnly_writePhase s _ (fun _ hb => by cases hb)
  · exact transmitsOnly_writePhase s _ (fun _ hb => by cases hb)
  · exact transmitsOnly_writePhase s _ (fun _ hb => by cases hb)
  · exact transmitsOnly_writePhase s _ (fun _ hb => by cases hb)
  · exact transmitsOnly_writePhase s _ (fun _ hb => by cases hb)
  · exact transmitsOnly_writePhase s _ (fun _ hb => by cases hb)
  · exact transmitsOnly_writePhase s _ (fun _ hb => by cases hb)
  · exact { TransmitsOnly.refl s with }
  · exact { transmitsOnly_srReadTx s with }
  · exact { transmitsOnly_srReadTx s with }
  · exact { transmitsOnly_thrWrite s ⟨hs, rfl⟩ with }
  · exact { transmitsOnly_srReadRx s with }
  · exact { transmitsOnly_srReadRx s with }
  · exact { transmitsOnly_rhrRead s with }

/-- A construction starts the history anew, and an eager BEGIN hands no byte to `THR`. -/
theorem construct_transmits_nothing {straps : Straps} (h : construct straps s = .next t) {e : Event}
    (he : e ∈ t.events) (b : Byte) : e.value ≠ .txchr b := by
  obtain ⟨_, _, c, _, _, ⟨_, hbegin⟩ | ⟨_, rfl⟩⟩ := construct_next h
  · have hfresh : TransmitsOnly (fun _ => False) (s.freshConnection straps.baud c) t :=
      transmitsOnly_beginConnection hbegin
    exact hfresh.appended (List.nil_append _).symm he
  · cases he

/-- The step of `s` takes a word that decodes to SEND of the byte `b`. -/
def TakesSend (s : State) (b : Byte) : Prop :=
  ∃ word, Takes s (.seqCmd word) ∧ decode s.cfg.w .seq word = .ok (.send b)

/-- A step that is not a construction transmits the operand of the SEND it takes, or of the one that waited. -/
theorem transmitsOnly_step (h : step s = .next t) (hr : ¬ ResetNext s) :
    TransmitsOnly (fun b => TakesSend s b ∨ WritesLatched s b) s t := by
  obtain ⟨u, hu, hp | ⟨i, he, hi⟩ | ⟨hr', _⟩ | rfl⟩ := step_effect h
  · have hlatched : ∀ b, WritesLatched u b → WritesLatched s b := by
      rw [hu]
      exact fun _ hb => hb
    exact (TransmitsOnly.of_sameButHost hu).trans ((transmitsOnly_phase hp).mono fun b hb => .inr (hlatched b hb))
  · have htaken : ∀ b, i = .send b → TakesSend s b := by
      rintro b rfl
      exact hi.resolve_left (by simp [Instr.port])
    exact (TransmitsOnly.of_sameButHost hu).trans ((transmitsOnly_exec he).mono fun b hb => .inl (htaken b hb))
  · exact absurd hr' hr
  · exact .of_sameButHost hu

/-- A step that is a construction hands no byte to `THR`. -/
theorem step_reset_transmits_nothing (h : step s = .next t) (hr : ResetNext s) {e : Event} (he : e ∈ t.events)
    (b : Byte) : e.value ≠ .txchr b := by
  obtain ⟨straps, rest, hdue⟩ := hr
  rw [step_due hdue] at h
  exact construct_transmits_nothing h he b

/-- Settles O48: it is the history's part of what a step transmits. -/
theorem historyIsOnlyAppendedTo : Obligations.HistoryIsOnlyAppendedTo := by
  unfold Obligations.HistoryIsOnlyAppendedTo
  intro s t h hr
  obtain ⟨l, hl, hown⟩ := (transmitsOnly_step h hr).history
  exact ⟨l, hl, fun e he => (hown e he).1⟩

/-- Settles O50: commands and steps transmit operands of SEND only, and a construction transmits nothing. -/
theorem thrBytesAreSendOperands : Obligations.ThrBytesAreSendOperands := by
  unfold Obligations.ThrBytesAreSendOperands
  refine ⟨?_, ?_, ?_, ?_⟩
  · intro i s t l e b h hl he hv
    exact (transmitsOnly_exec h).appended hl he hv
  · intro s t l e b h hl he hv
    by_cases hr : ResetNext s
    · have ht : e ∈ t.events := hl ▸ List.mem_append_right _ he
      exact absurd hv (step_reset_transmits_nothing h hr ht b)
    · exact (transmitsOnly_step h hr).appended hl he hv
  · intro i s t h hne
    exact (transmitsOnly_exec h).latch hne
  · intro s t h hr hne
    rcases (transmitsOnly_step h hr).latch hne with htakes | ⟨_, hsame⟩
    · exact htakes
    · exact absurd hsame.symm hne

end Sys2Proof.Machine

/-! ## Words and commands (30_encoding.md R60 to R67)

The decoder of each port is said once, by the two fields of the word; that the decoder inverts the encoder, that a word
has at most one meaning, and which words have none, are all read off that one `↔`. -/

namespace Sys2Proof

/-- The command `i` is of port `p` and its word has the fields `op` and `low` (30_encoding.md R61, R62, R64, R65). -/
def HasFields (p : Port) (op low : Nat) (i : Instr) : Prop := i.port = p ∧ opcode i = op ∧ lowField i = low

theorem noOperand_ok_iff {op low : Nat} {i j : Instr} : noOperand op low i = .ok j ↔ low = 0 ∧ i = j := by
  unfold noOperand
  split
  next hlow => simp [hlow]
  next hlow => simp [hlow]

theorem decodeFifo_ok_iff {w word : Nat} {i : Instr} :
    decodeFifo w word = .ok i ↔ HasFields .fifo (wordOp w word) (wordLow w word) i := by
  constructor
  · intro h
    unfold decodeFifo at h
    split at h
    case h_1 hop =>
      cases h
      exact ⟨rfl, hop.symm, rfl⟩
    case h_6 => cases h
    all_goals
      rename_i hop
      obtain ⟨hlow, rfl⟩ := noOperand_ok_iff.mp h
      exact ⟨rfl, hop.symm, hlow.symm⟩
  · rintro ⟨hport, hop, hlow⟩
    cases i with
    | push item => simp only [decodeFifo, ← hop, ← hlow, opcode, lowField]
    | pop | peek | clear | count => simp only [decodeFifo, ← hop, ← hlow, opcode, lowField, noOperand, if_true]
    | begin | available | send _ | receive | isinit | enable | disable | destroy => cases hport

theorem wordLow_lt (k word : Nat) : wordLow k word < 2 ^ k := Nat.mod_lt word (Nat.two_pow_pos k)

/-- The operand of SEND is the low field of its word, unchanged (30_encoding.md R63). -/
theorem lowField_send_wordLow (word : Nat) : lowField (.send (BitVec.ofNat 8 (wordLow 8 word))) = wordLow 8 word :=
  Nat.mod_eq_of_lt (wordLow_lt 8 word)

theorem decodeSeq_ok_iff {word : Nat} {i : Instr} :
    decodeSeq word = .ok i ↔ HasFields .seq (wordOp 8 word) (wordLow 8 word) i := by
  constructor
  · intro h
    unfold decodeSeq at h
    split at h
    case h_3 hop =>
      cases h
      exact ⟨rfl, hop.symm, lowField_send_wordLow word⟩
    case h_9 => cases h
    all_goals
      rename_i hop
      obtain ⟨hlow, rfl⟩ := noOperand_ok_iff.mp h
      exact ⟨rfl, hop.symm, hlow.symm⟩
  · rintro ⟨hport, hop, hlow⟩
    cases i with
    | send byte => simp only [decodeSeq, ← hop, ← hlow, opcode, lowField, BitVec.ofNat_toNat, BitVec.setWidth_eq]
    | begin | available | receive | isinit | enable | disable | destroy =>
      simp only [decodeSeq, ← hop, ← hlow, opcode, lowField, noOperand, if_true]
    | push _ | pop | peek | clear | count => cases hport

/-- The decoder of either port accepts a word exactly as the command of that port with the word's two fields. -/
theorem decode_ok_iff_hasFields {w word : Nat} {p : Port} {i : Instr} : decode w p word = .ok i ↔
    HasFields p (wordOp (lowWidth w p) word) (wordLow (lowWidth w p) word) i := by
  cases p with
  | fifo => exact decodeFifo_ok_iff
  | seq => exact decodeSeq_ok_iff

/-- A command is well formed exactly where its operand fits the low field (30_encoding.md R61, R62). -/
theorem wf_iff_lowField_lt {w : Nat} {i : Instr} : i.wf w = true ↔ lowField i < 2 ^ lowWidth w i.port := by
  cases i with
  | push item => exact decide_eq_true_iff
  | send byte => exact iff_of_true rfl byte.isLt
  | pop | peek | clear | count | begin | available | receive | isinit | enable | disable | destroy =>
    exact iff_of_true rfl (Nat.two_pow_pos _)

/-- A word is put together from two fields exactly where they are its quotient and remainder. -/
theorem fields_eq_iff {k word op low : Nat} :
    (op = wordOp k word ∧ low = wordLow k word) ↔ low < 2 ^ k ∧ op * 2 ^ k + low = word := by
  constructor
  · rintro ⟨rfl, rfl⟩
    exact ⟨wordLow_lt k word, Nat.div_add_mod' word (2 ^ k)⟩
  · rintro ⟨hlow, rfl⟩
    constructor
    · rw [wordOp, Nat.mul_comm, Nat.mul_add_div (Nat.two_pow_pos k), Nat.div_eq_of_lt hlow, Nat.add_zero]
    · rw [wordLow, Nat.mul_add_mod', Nat.mod_eq_of_lt hlow]

/-- The decoder is the inverse of the encoder: a word decodes to a command exactly where it is the encoding of that
command, well formed and of that port. -/
theorem decode_ok_iff_encode {w word : Nat} {p : Port} {i : Instr} :
    decode w p word = .ok i ↔ i.port = p ∧ i.wf w = true ∧ encode w i = word := by
  rw [decode_ok_iff_hasFields]
  refine and_congr_right fun hport => ?_
  subst hport
  rw [wf_iff_lowField_lt]
  exact fields_eq_iff

/-- The word of a well-formed command has the width of its port (30_encoding.md R60). -/
theorem encode_lt {w : Nat} {i : Instr} (h : i.wf w = true) : encode w i < 2 ^ portWidth w i.port := by
  cases i with
  | push item => exact Laws.EncodeFits.push item w h
  | pop => exact Laws.EncodeFits.pop w h
  | peek => exact Laws.EncodeFits.peek w h
  | clear => exact Laws.EncodeFits.clear w h
  | count => exact Laws.EncodeFits.count w h
  | begin => exact Laws.EncodeFits.begin w h
  | available => exact Laws.EncodeFits.available w h
  | send byte => exact Laws.EncodeFits.send byte w h
  | receive => exact Laws.EncodeFits.receive w h
  | isinit => exact Laws.EncodeFits.isinit w h
  | enable => exact Laws.EncodeFits.enable w h
  | disable => exact Laws.EncodeFits.disable w h
  | destroy => exact Laws.EncodeFits.destroy w h

/-! Which pairs of fields have a meaning (30_encoding.md R64 to R66). -/

theorem exists_hasFields_fifo_iff {op low : Nat} :
    (∃ i, HasFields .fifo op low i) ↔ 1 ≤ op ∧ op ≤ 5 ∧ (op ≠ 1 → low = 0) := by
  constructor
  · rintro ⟨i, hport, rfl, rfl⟩
    cases i with
    | push _ | pop | peek | clear | count => simp [opcode, lowField]
    | begin | available | send _ | receive | isinit | enable | disable | destroy => cases hport
  · rintro ⟨hpos, hle, hlow⟩
    by_cases hop : op = 1
    · exact ⟨.push low, rfl, hop.symm, rfl⟩
    cases hlow hop
    obtain rfl | rfl | rfl | rfl : op = 2 ∨ op = 3 ∨ op = 4 ∨ op = 5 := by omega
    · exact ⟨.pop, rfl, rfl, rfl⟩
    · exact ⟨.peek, rfl, rfl, rfl⟩
    · exact ⟨.clear, rfl, rfl, rfl⟩
    · exact ⟨.count, rfl, rfl, rfl⟩

theorem exists_hasFields_seq_iff {op low : Nat} (hbyte : low < 2 ^ 8) :
    (∃ i, HasFields .seq op low i) ↔ 1 ≤ op ∧ op ≤ 8 ∧ (op ≠ 3 → low = 0) := by
  constructor
  · rintro ⟨i, hport, rfl, rfl⟩
    cases i with
    | begin | available | send _ | receive | isinit | enable | disable | destroy => simp [opcode, lowField]
    | push _ | pop | peek | clear | count => cases hport
  · rintro ⟨hpos, hle, hlow⟩
    by_cases hop : op = 3
    · exact ⟨.send (BitVec.ofNat 8 low), rfl, hop.symm, Nat.mod_eq_of_lt hbyte⟩
    cases hlow hop
    obtain rfl | rfl | rfl | rfl | rfl | rfl | rfl :
        op = 1 ∨ op = 2 ∨ op = 4 ∨ op = 5 ∨ op = 6 ∨ op = 7 ∨ op = 8 := by omega
    · exact ⟨.begin, rfl, rfl, rfl⟩
    · exact ⟨.available, rfl, rfl, rfl⟩
    · exact ⟨.receive, rfl, rfl, rfl⟩
    · exact ⟨.isinit, rfl, rfl, rfl⟩
    · exact ⟨.enable, rfl, rfl, rfl⟩
    · exact ⟨.disable, rfl, rfl, rfl⟩
    · exact ⟨.destroy, rfl, rfl, rfl⟩

theorem undecodable_iff {w word : Nat} {p : Port} : (∀ i, decode w p word ≠ .ok i) ↔
    ¬ ∃ i, HasFields p (wordOp (lowWidth w p) word) (wordLow (lowWidth w p) word) i := by
  simp only [ne_eq, decode_ok_iff_hasFields, not_exists]

theorem not_exists_hasFields_fifo_iff {op low : Nat} :
    (¬ ∃ i, HasFields .fifo op low i) ↔ op = 0 ∨ 6 ≤ op ∨ (op ≠ 1 ∧ low ≠ 0) := by
  rw [exists_hasFields_fifo_iff]
  omega

theorem not_exists_hasFields_seq_iff {op low : Nat} (hbyte : low < 2 ^ 8) :
    (¬ ∃ i, HasFields .seq op low i) ↔ op = 0 ∨ 9 ≤ op ∨ (op ≠ 3 ∧ low ≠ 0) := by
  rw [exists_hasFields_seq_iff hbyte]
  omega

theorem reservedFifoWord_iff {w word : Nat} :
    Machine.ReservedFifoWord w word ↔ ∀ i, decode w .fifo word ≠ .ok i :=
  not_exists_hasFields_fifo_iff.symm.trans undecodable_iff.symm

theorem reservedSeqWord_iff {w word : Nat} :
    Machine.ReservedSeqWord word ↔ ∀ i, decode w .seq word ≠ .ok i :=
  (not_exists_hasFields_seq_iff (wordLow_lt 8 word)).symm.trans undecodable_iff.symm

/-! ### The statements about the decoder -/

/-- Settles O1: the encoding of a well-formed command satisfies the decoder's `↔`. -/
theorem decodeOfEncodeIsTheInstruction : Obligations.DecodeOfEncodeIsTheInstruction := by
  unfold Obligations.DecodeOfEncodeIsTheInstruction
  intro w i hwf
  exact decode_ok_iff_encode.mpr ⟨rfl, hwf, rfl⟩

/-- Settles O2: the converse of the same `↔`, and the width of an encoding. -/
theorem acceptedWordIsTheEncoding : Obligations.AcceptedWordIsTheEncoding := by
  unfold Obligations.AcceptedWordIsTheEncoding
  intro w p word i h
  obtain ⟨rfl, hwf, rfl⟩ := decode_ok_iff_encode.mp h
  exact ⟨rfl, hwf, rfl, encode_lt hwf⟩

/-- Settles O4: each word is the encoding of the command the table gives it. -/
theorem tableWordsDecode : Obligations.TableWordsDecode := by
  unfold Obligations.TableWordsDecode
  refine ⟨?_, ?_, ?_, ?_, ?_, ?_, ?_, ?_, ?_, ?_, ?_, ?_, ?_⟩
  all_goals exact decode_ok_iff_encode.mpr ⟨rfl, rfl, rfl⟩

end Sys2Proof

/-! ## The codes of the small fields (30_encoding.md R71, R72; 41_connection_ops.md R117) -/

namespace Sys2Proof.Machine

/-- The registers in the order of the table of R72. -/
def regTable : List PReg := [.pmxOwn, .pmxFn, .clkEn, .cr, .brg, .mr, .imr, .sr, .thr, .rhr]

/-- The phases in the order of the table of R117. -/
def phaseTable : List Phase :=
  [.idle, .bRelease, .bAssign, .bClock, .bDisable, .bBaud, .bMode, .bImask, .bEnable, .bDone, .sPoll, .sWrite,
    .aPoll, .aRead]

/-- A code is the place in the table. -/
theorem regTable_regCode (r : PReg) : regTable[(regCode r).toNat]? = some r := by
  cases r with
  | pmxOwn | pmxFn | clkEn | cr | brg | mr | imr | sr | thr | rhr => rfl

theorem phaseTable_phaseCode (p : Phase) : phaseTable[(phaseCode p).toNat]? = some p := by
  cases p with
  | idle | bRelease | bAssign | bClock | bDisable | bBaud | bMode | bImask | bEnable | bDone | sPoll | sWrite | aPoll
  | aRead => rfl

theorem regCode_injective {r r' : PReg} (h : regCode r = regCode r') : r = r' := by
  have hplace : some r = some r' := by rw [← regTable_regCode r, h, regTable_regCode r']
  exact Option.some.inj hplace

theorem phaseCode_injective {p p' : Phase} (h : phaseCode p = phaseCode p') : p = p' := by
  have hplace : some p = some p' := by rw [← phaseTable_phaseCode p, h, phaseTable_phaseCode p']
  exact Option.some.inj hplace

theorem ctrlOfCode_ctrlCode (c : CtrlId) : ctrlOfCode (ctrlCode c) = some c := by
  cases c with
  | first | second | third => rfl

theorem ctrlOfCode_eq_none_iff (k : BitVec 2) : ctrlOfCode k = none ↔ k = 3#2 := by
  rcases ctrlOfCode_cases k with ⟨hk, hnone, _⟩ | ⟨c, hk, hsome, _⟩
  · exact iff_of_true hnone hk
  · exact iff_of_false (by simp [hsome]) hk

/-- Settles O5: the codes are read off the tables, and each code leads back to its value. -/
theorem fieldCodesAreThoseOfTheTables : Obligations.FieldCodesAreThoseOfTheTables := by
  unfold Obligations.FieldCodesAreThoseOfTheTables
  exact ⟨⟨rfl, ctrlOfCode_ctrlCode, ctrlOfCode_eq_none_iff⟩, ⟨rfl, fun _ _ => regCode_injective, rfl⟩,
    rfl, fun _ _ => phaseCode_injective⟩

end Sys2Proof.Machine

/-! ## What one step takes from the ports (30_encoding.md R60, R66; log entry 2) -/

namespace Sys2Proof.Machine

variable {s t : State}

/-- What comes of an action: `step` is this of `nextAction`. -/
def Action.outcome : Action → Host.Outcome State Fault Refusal
  | .done o => o
  | .take i t => exec i t

theorem step_eq_outcome (s : State) : step s = (nextAction s).outcome := rfl

/-- A step does what the first input that is due asks for. -/
theorem step_of_due {x : Input} {held rest : List Input} (h : s.due = x :: rest ∧ s.held = held) :
    step s = (onInput x held rest s.quiet).outcome := by
  obtain ⟨hdue, rfl⟩ := h
  rw [step_eq_outcome, nextAction, hdue]

theorem takeWord_of_decode {p : Port} {word : Nat} {i : Instr} (h : decode s.cfg.w p word = .ok i) :
    (takeWord p word s).outcome = exec i s := by
  simp only [takeWord, h, Action.outcome]

theorem takeWord_of_undecodable {p : Port} {word : Nat} (h : ∀ i, decode s.cfg.w p word ≠ .ok i) :
    (takeWord p word s).outcome = .refused .reservedEncoding := by
  cases hd : decode s.cfg.w p word with
  | ok i => exact absurd hd (h i)
  | error e => simp only [takeWord, hd, Action.outcome]

/-- The FIFO's port is ready in every phase. -/
theorem step_fifoCmd {word : Nat} {rest : List Input} (h : s.inputs = .fifoCmd word :: rest) :
    step s = (takeWord .fifo word (s.quiet.pending rest)).outcome :=
  step_of_due (State.due_of_head h rfl)

/-- The sequencer's port is ready when no command is in flight. -/
theorem step_seqCmd {word : Nat} {rest : List Input} (h : s.inputs = .seqCmd word :: rest) (hs : s.seq = .idle) :
    step s = (takeWord .seq word (s.quiet.pending rest)).outcome :=
  step_of_due ⟨(State.due_of_idle hs).trans h, State.held_of_idle hs⟩

theorem step_idle {rest : List Input} (h : s.inputs = .idle :: rest) : step s = phase (s.quiet.pending rest) :=
  step_of_due (State.due_of_head h rfl)

/-- Without a command in flight there is no phase to make. -/
theorem phase_of_idle (hs : s.seq = .idle) : phase s = .next s := by simp only [phase, hs]

theorem SameButPort.inputs (h : SameButPort s t) : t.inputs = s.inputs := by rw [h]
theorem SameButPort.fifo (h : SameButPort s t) : t.fifo = s.fifo := by rw [h]

/-- A phase takes no input and leaves `alive`, the identity and the bare FIFO alone (41_connection_ops.md R117). -/
theorem phase_frame (h : phase s = .next t) :
    t.inputs = s.inputs ∧ t.alive = s.alive ∧ t.ctrl = s.ctrl ∧ t.fifo = s.fifo := by
  obtain ⟨_, _, _, e⟩ := phase_effect h
  obtain ⟨_, _, _, hctrl⟩ := latches_eq_iff.mp e.latches
  exact ⟨e.inputs, e.alive, hctrl, e.fifo⟩

/-- While a command is in flight, inputs that all wait let the step be its next phase. -/
theorem step_of_all_wait (hs : s.seq ≠ .idle) (hw : ∀ x ∈ s.inputs, x.waits = true) : step s = phase s.quiet :=
  step_nothing_due (State.due_of_waits hs hw).1

/-- While a command is in flight, the first input that does not wait is what the step takes. -/
theorem step_past_held {held rest : List Input} {x : Input} (hs : s.seq ≠ .idle)
    (hin : s.inputs = held ++ x :: rest) (hw : ∀ y ∈ held, y.waits = true) (hx : x.waits = false) :
    step s = (onInput x held rest s.quiet).outcome :=
  step_of_due (State.due_of_append hs hin hw hx)

/-- An input that does not wait is taken where it stands first. -/
theorem step_of_head (s : State) {x : Input} (l : List Input) (hx : x.waits = false) :
    step { s with inputs := x :: l } = (onInput x [] l (s.quiet.pending (x :: l))).outcome :=
  step_of_due (State.due_of_head (s := { s with inputs := x :: l }) rfl hx)

/-! ### The statements about steps -/

/-- Settles O3: a word is reserved exactly where no command has its fields, and taking one is refused. -/
theorem reservedWordsAreRefused : Obligations.ReservedWordsAreRefused := by
  unfold Obligations.ReservedWordsAreRefused
  refine ⟨fun _ _ => reservedFifoWord_iff, fun _ _ => reservedSeqWord_iff, ?_, ?_⟩
  · intro s word rest hin hres
    rw [step_fifoCmd hin]
    exact takeWord_of_undecodable (reservedFifoWord_iff.mp hres)
  · intro s word rest hin hs hres
    rw [step_seqCmd hin hs]
    exact takeWord_of_undecodable (reservedSeqWord_iff.mp hres)

/-- Settles O10: nothing is due, so the step is a phase, and a phase writes none of the four fields. -/
theorem commandInFlightHoldsThePort : Obligations.CommandInFlightHoldsThePort := by
  unfold Obligations.CommandInFlightHoldsThePort
  intro s t hs hw
  have hstep : step s = phase s.quiet := step_of_all_wait hs hw
  refine ⟨hstep, fun h => ?_⟩
  exact phase_frame (s := s.quiet) (hstep ▸ h)

/-- Settles O59: behind what is held or at the front, the step makes the same of an input that does not wait. -/
theorem heldInputsLetTheOthersPass : Obligations.HeldInputsLetTheOthersPass := by
  unfold Obligations.HeldInputsLetTheOthersPass
  intro s held rest hs hw
  refine ⟨fun hin => ?_, fun word hin => ?_, fun hin => ?_, fun straps hin => ?_⟩
  all_goals
    rw [step_past_held hs hin hw rfl, step_of_head s _ rfl]
    rfl

/-- Settles O7: the word is taken in every phase, and `exec` runs what it decodes to. -/
theorem stepRunsTheFifoCommand : Obligations.StepRunsTheFifoCommand := by
  unfold Obligations.StepRunsTheFifoCommand
  intro s word rest i hin hdec
  rw [step_fifoCmd hin]
  exact takeWord_of_decode hdec

/-- Settles O8: the word is taken because the port is ready, and `exec` runs what it decodes to. -/
theorem stepRunsTheSequencerCommand : Obligations.StepRunsTheSequencerCommand := by
  unfold Obligations.StepRunsTheSequencerCommand
  intro s word rest i hin hs hdec
  rw [step_seqCmd hin hs]
  exact takeWord_of_decode hdec

/-- Settles O9: both steps come to the phase of an idle sequencer, which does nothing. -/
theorem idleStepChangesNothing : Obligations.IdleStepChangesNothing := by
  unfold Obligations.IdleStepChangesNothing
  intro s hs
  constructor
  · intro hin
    rw [step_nothing_due ((State.due_of_idle hs).trans hin)]
    exact phase_of_idle hs
  · intro rest hin
    rw [step_idle hin]
    exact phase_of_idle hs

end Sys2Proof.Machine

/-! ## The FIFO as the list of its buffered items (40_fifo_ops.md R86, R87)

Each operation on the four pieces of state is said once as an operation on the list `Fifo.items`. -/

namespace Sys2Proof.Machine

variable {α : Type} {n : Nat} {fits : α → Prop} {f : Fifo α}

@[simp] theorem Fifo.items_length (n : Nat) (free : Nat → α) (f : Fifo α) : (f.items n free).length = f.count := by
  simp [Fifo.items]

@[simp] theorem Fifo.items_cleared (n : Nat) (free : Nat → α) (f : Fifo α) : f.cleared.items n free = [] := rfl

@[simp] theorem Fifo.items_fresh (n : Nat) (free : Nat → α) : (Fifo.fresh : Fifo α).items n free = [] := rfl

/-! The slots and the indices after PUSH and POP (20_memory.md R41; R81, R82). -/

theorem Fifo.push_slotRead_wr (v : α) (free : Nat → α) (hroom : f.count ≠ n) :
    (f.push n v).slotRead free f.wr = v :=
  Fifo.slotRead_of_stored v _ free f.wr (Fifo.push_stored_wr n v f hroom)

theorem Fifo.push_slotRead_other (v : α) (free : Nat → α) {i : Nat} (hi : i ≠ f.wr) :
    (f.push n v).slotRead free i = f.slotRead free i := by
  simp only [Fifo.slotRead, Fifo.push_stored_other n v f i hi]

@[simp] theorem Fifo.drop_slotRead (free : Nat → α) (i : Nat) : (f.drop n).slotRead free i = f.slotRead free i := by
  simp only [Fifo.slotRead, Fifo.drop_stored]

theorem Fifo.drop_rd (h0 : f.count ≠ 0) : (f.drop n).rd = advance n f.rd := by
  rw [Fifo.drop_some n f h0]

theorem Fifo.push_wr (v : α) (hroom : f.count ≠ n) : (f.push n v).wr = advance n f.wr := by
  rw [Fifo.push_room n v f hroom]

/-- The window seen from the advanced read index is the old window without its first slot (R88). -/
theorem advance_add_mod (n i k : Nat) : (advance n i + k) % n = (i + (k + 1)) % n := by
  rw [advance, Nat.mod_add_mod, Nat.add_assoc, Nat.add_comm 1 k]

/-! The operations on the list. -/

/-- PUSH with room appends: `wr` is the slot after the window, and no slot of the window is written. -/
theorem FifoInv.items_push_room (h : FifoInv n fits f) (v : α) (free : Nat → α) (hroom : f.count ≠ n) :
    (f.push n v).items n free = f.items n free ++ [v] := by
  have hold : ∀ k ∈ List.range f.count,
      (f.push n v).slotRead free ((f.rd + k) % n) = f.slotRead free ((f.rd + k) % n) := fun k hk =>
    Fifo.push_slotRead_other v free (h.window_ne_wr (List.mem_range.mp hk) hroom)
  have hnew : (f.push n v).slotRead free ((f.rd + f.count) % n) = v := by
    rw [← h.link]
    exact Fifo.push_slotRead_wr v free hroom
  simp only [Fifo.items, Fifo.push_count, if_neg hroom, Fifo.push_rd, List.range_succ, List.map_append,
    List.map_cons, List.map_nil, hnew, List.map_congr_left hold]

/-- PUSH appends below the capacity and drops the newest at it (R81, R86). -/
theorem FifoInv.items_push (h : FifoInv n fits f) (v : α) (free : Nat → α) :
    (f.push n v).items n free = if f.count < n then f.items n free ++ [v] else f.items n free := by
  have hle := h.count
  split
  next hlt => exact h.items_push_room v free (by omega)
  next hfull => rw [Fifo.push_full n v f (by omega)]

/-- The list of a non-empty FIFO: what slot `rd` reads as, before the list POP leaves. -/
theorem Fifo.items_eq_cons (n : Nat) (free : Nat → α) (hrd : f.rd < n) (h0 : f.count ≠ 0) :
    f.items n free = f.slotRead free f.rd :: (f.drop n).items n free := by
  obtain ⟨c, hc⟩ := Nat.exists_eq_succ_of_ne_zero h0
  simp only [Fifo.items, Fifo.drop_count, Fifo.drop_slotRead, Fifo.drop_rd h0, advance_add_mod, hc,
    Nat.succ_eq_add_one, Nat.add_sub_cancel, List.range_succ_eq_map, List.map_cons, List.map_map, Function.comp_def,
    Nat.add_zero, Nat.mod_eq_of_lt hrd]

theorem Fifo.items_eq_nil (n : Nat) (free : Nat → α) (h0 : f.count = 0) : f.items n free = [] :=
  List.length_eq_zero_iff.mp ((f.items_length n free).trans h0)

/-- POP removes the oldest item, if there is one (R82, R86). -/
theorem FifoInv.items_drop (h : FifoInv n fits f) (free : Nat → α) :
    (f.drop n).items n free = (f.items n free).tail := by
  by_cases h0 : f.count = 0
  · rw [Fifo.drop_empty n f h0, Fifo.items_eq_nil n free h0, List.tail_nil]
  · rw [Fifo.items_eq_cons n free h.rd h0, List.tail_cons]

/-- POP and PEEK answer the oldest item, or the default of the empty list (R82, R83, R86). -/
theorem FifoInv.head_eq_headD (h : FifoInv n fits f) (d : α) (free : Nat → α) :
    f.head d free = (f.items n free).headD d := by
  by_cases h0 : f.count = 0
  · rw [Fifo.head_empty f d free h0, Fifo.items_eq_nil n free h0, List.headD_nil]
  · rw [Fifo.head_some f d free h0, Fifo.items_eq_cons n free h.rd h0, List.headD_cons]

end Sys2Proof.Machine

/-! ## The FIFO commands (40_fifo_ops.md R80 to R87) -/

namespace Sys2Proof

/-- The word of a FIFO command without an operand is its opcode before a zero item field (30_encoding.md R64, R66). -/
theorem decode_fifo_no_operand {w : Nat} {i : Instr} (hport : i.port = .fifo) (hlow : lowField i = 0) :
    decode w .fifo (opcode i * 2 ^ w) = .ok i := by
  refine decode_ok_iff_encode.mpr ⟨hport, ?_, ?_⟩
  · rw [wf_iff_lowField_lt, hlow]
    exact Nat.two_pow_pos _
  · rw [encode, hport, hlow, lowWidth, Nat.add_zero]

theorem decode_push {w item : Nat} (h : item < 2 ^ w) : decode w .fifo (2 ^ w + item) = .ok (.push item) := by
  refine decode_ok_iff_encode.mpr ⟨rfl, wf_iff_lowField_lt.mpr h, ?_⟩
  show 1 * 2 ^ w + item = 2 ^ w + item
  rw [Nat.one_mul]

end Sys2Proof

namespace Sys2Proof.Machine

variable {s t : State}

theorem State.fifoHead_empty (h : s.fifo.count = 0) : s.fifoHead = s.cfg.dflt := Fifo.head_empty s.fifo _ _ h

theorem State.fifoHead_some (h : s.fifo.count ≠ 0) : s.fifoHead = s.fifo.slotRead (freeItem s.cfg.w) s.fifo.rd :=
  Fifo.head_some s.fifo _ _ h

/-! The state each command answers. -/

theorem exec_push (item : Nat) (s : State) : exec (.push item) s =
    .next ({ s with fifo := s.fifo.push s.cfg.n (itemOperand s.cfg.w item) }.respondFifo 0) := rfl

theorem exec_pop (s : State) : exec .pop s = .next ({ s with fifo := s.fifo.drop s.cfg.n }.respondFifo s.fifoHead) :=
  rfl

theorem exec_peek (s : State) : exec .peek s = .next (s.respondFifo s.fifoHead) := rfl

theorem exec_clear (s : State) : exec .clear s = .next ({ s with fifo := s.fifo.cleared }.respondFifo 0) := rfl

theorem exec_count (s : State) : exec .count s = .next (s.respondFifo s.fifo.count) := rfl

/-- The item of a word is taken unchanged (30_encoding.md R63). -/
theorem exec_push_of_lt {item : Nat} (h : item < 2 ^ s.cfg.w) : exec (.push item) s =
    .next ({ s with fifo := s.fifo.push s.cfg.n item }.respondFifo 0) := by
  have hitem : itemOperand s.cfg.w item = item := Nat.mod_eq_of_lt h
  rw [exec_push, hitem]

/-! A run of PUSHes. -/

theorem execAll_cons {i : Instr} {rest : List Instr} (h : exec i s = .next t) :
    execAll (i :: rest) s = execAll rest t := by
  simp only [execAll, h]

/-- PUSHes of `W`-bit items, from any state that meets the FIFO's invariant, append the items and keep the oldest `N`
(R87 from the fresh FIFO). -/
theorem execAll_push (items : List Nat) (hinv : FifoInv s.cfg.n (fun v => v < 2 ^ s.cfg.w) s.fifo)
    (hitems : ∀ v ∈ items, v < 2 ^ s.cfg.w) :
    ∃ t, execAll (items.map Instr.push) s = .next t ∧
      t.fifo.items s.cfg.n (freeItem s.cfg.w) = (s.fifo.items s.cfg.n (freeItem s.cfg.w) ++ items).take s.cfg.n := by
  induction items generalizing s with
  | nil =>
    refine ⟨s, rfl, ?_⟩
    rw [List.append_nil, List.take_of_length_le]
    rw [Fifo.items_length]
    exact hinv.count
  | cons x xs ih =>
    have hx : x < 2 ^ s.cfg.w := hitems x List.mem_cons_self
    have hxs : ∀ v ∈ xs, v < 2 ^ s.cfg.w := fun v hv => hitems v (List.mem_cons_of_mem x hv)
    rw [List.map_cons, execAll_cons (exec_push_of_lt hx)]
    obtain ⟨t, ht, hl⟩ := ih (s := { s with fifo := s.fifo.push s.cfg.n x }.respondFifo 0) (hinv.push x hx) hxs
    refine ⟨t, ht, hl.trans ?_⟩
    simp only [State.respondFifo_cfg, State.respondFifo_fifo, hinv.items_push]
    split
    next hroom => rw [List.append_assoc, List.singleton_append]
    next hfull =>
      have hlen : s.cfg.n ≤ (s.fifo.items s.cfg.n (freeItem s.cfg.w)).length := by
        rw [Fifo.items_length]
        exact Nat.le_of_not_lt hfull
      rw [List.take_append_of_le_length hlen, List.take_append_of_le_length hlen]

/-! What leaves the bare FIFO block alone (R80). -/

theorem SameButPort.bareFifo (h : SameButPort s t) :
    t.fifo = s.fifo ∧ t.fifoRsp = s.fifoRsp ∧ t.fifoLog = s.fifoLog := by
  rw [h]
  exact ⟨rfl, rfl, rfl⟩

theorem SameButRx.bareFifo (h : SameButRx s t) :
    t.fifo = s.fifo ∧ t.fifoRsp = s.fifoRsp ∧ t.fifoLog = s.fifoLog := by
  rw [h]
  exact ⟨rfl, rfl, rfl⟩

/-! ### The statements about the FIFO commands -/

/-- Settles O18: each command is its operation on the list of buffered items, and each operation keeps the FIFO's
invariant. -/
theorem fifoIsABoundedQueue : Obligations.FifoIsABoundedQueue := by
  unfold Obligations.FifoIsABoundedQueue
  rintro s l hinv rfl
  have hhead : s.fifoHead = (s.fifo.items s.cfg.n (freeItem s.cfg.w)).headD s.cfg.dflt := hinv.head_eq_headD _ _
  refine ⟨fun item => ?_, ?_, ?_, ?_, ?_⟩
  · refine ⟨_, exec_push item s, hinv.push _ (itemOperand_lt _ item), ?_⟩
    rw [Fifo.items_length]
    exact hinv.items_push _ _
  · exact ⟨_, exec_pop s, hinv.drop, hinv.items_drop _, congrArg some hhead⟩
  · exact ⟨_, exec_peek s, hinv, rfl, congrArg some hhead⟩
  · exact ⟨_, exec_clear s, hinv.cleared, Fifo.items_cleared _ _ _⟩
  · exact ⟨_, exec_count s, hinv, rfl, congrArg some (Fifo.items_length _ _ _).symm⟩

/-- Settles O12: PUSH leaves a full FIFO; with room it stores the item, which its word holds unchanged. -/
theorem pushFollowsItsRule : Obligations.PushFollowsItsRule := by
  unfold Obligations.PushFollowsItsRule
  intro s item
  refine ⟨decode_push, fun hfull => ?_, fun hitem hroom => ?_⟩
  · rw [exec_push, Fifo.push_full _ _ _ hfull]
    rfl
  · have hcount : (s.fifo.push s.cfg.n item).count = s.fifo.count + 1 := by rw [Fifo.push_count, if_neg hroom]
    exact ⟨_, exec_push_of_lt hitem, Fifo.push_stored_wr _ _ _ hroom, Fifo.push_stored_other _ _ _,
      Fifo.push_wr item hroom, Fifo.push_rd _ _ _, hcount, rfl, rfl, rfl⟩

/-- Settles O19: PUSHes keep the oldest `N` items of a list that the fresh FIFO starts empty. -/
theorem pushesSaturateAtCapacity : Obligations.PushesSaturateAtCapacity := by
  unfold Obligations.PushesSaturateAtCapacity
  intro s items hfresh hn hitems
  have hinv : FifoInv s.cfg.n (fun v => v < 2 ^ s.cfg.w) s.fifo := hfresh ▸ FifoInv.fresh hn
  obtain ⟨t, ht, hl⟩ := execAll_push items hinv hitems
  rw [hfresh, Fifo.items_fresh, List.nil_append] at hl
  refine ⟨t, ht, ?_, hl⟩
  rw [← Fifo.items_length s.cfg.n (freeItem s.cfg.w) t.fifo, hl, List.length_take, Nat.min_comm]

/-- Settles O20: each of the five commands answers a state made from `s` by writing the FIFO block and its response
port. -/
theorem fifoCommandsAlwaysComplete : Obligations.FifoCommandsAlwaysComplete := by
  unfold Obligations.FifoCommandsAlwaysComplete
  intro i s hport
  cases i with
  | push item => exact ⟨_, exec_push item s, rfl⟩
  | pop => exact ⟨_, exec_pop s, rfl⟩
  | peek => exact ⟨_, exec_peek s, rfl⟩
  | clear => exact ⟨_, exec_clear s, rfl⟩
  | count => exact ⟨_, exec_count s, rfl⟩
  | begin | available | send _ | receive | isinit | enable | disable | destroy => cases hport

/-- Settles O52: the FIFO's commands are those of O20; none of the four groups of sequencer commands writes the FIFO
block. -/
theorem blocksAreIndependent : Obligations.BlocksAreIndependent := by
  unfold Obligations.BlocksAreIndependent
  intro i s t h
  constructor
  · intro hseq
    rcases exec_effect h with ⟨hfifo, _⟩ | ⟨_, e⟩ | ⟨_, e⟩ | ⟨_, e⟩ | ⟨_, e⟩
    case inl => exact absurd (hseq.symm.trans hfifo) (by decide)
    all_goals exact e.bareFifo
  · intro hfifo
    obtain ⟨u, hu, hsame⟩ := fifoCommandsAlwaysComplete i s hfifo
    cases h.symm.trans hu
    exact hsame

/-- Settles O13: POP answers the head and drops it, in the two cases of each. -/
theorem popFollowsItsRule : Obligations.PopFollowsItsRule := by
  unfold Obligations.PopFollowsItsRule
  intro s
  refine ⟨decode_fifo_no_operand (i := .pop) rfl rfl, fun hempty => ?_, fun v hsome hv => ?_⟩
  · rw [exec_pop, Fifo.drop_empty _ _ hempty, State.fifoHead_empty hempty]
    rfl
  · rw [exec_pop, Fifo.drop_some _ _ hsome, State.fifoHead_some hsome, hv]
    rfl

/-- Settles O14: PEEK answers the same head. -/
theorem peekFollowsItsRule : Obligations.PeekFollowsItsRule := by
  unfold Obligations.PeekFollowsItsRule
  intro s
  refine ⟨decode_fifo_no_operand (i := .peek) rfl rfl, fun hempty => ?_, fun v hsome hv => ?_⟩
  · rw [exec_peek, State.fifoHead_empty hempty]
    rfl
  · rw [exec_peek, State.fifoHead_some hsome, hv]
    rfl

/-- Settles O15: the state CLEAR answers has `count` and `rd` written in it, and no slot. -/
theorem clearFollowsItsRule : Obligations.ClearFollowsItsRule := by
  unfold Obligations.ClearFollowsItsRule
  intro s
  exact ⟨decode_fifo_no_operand (i := .clear) rfl rfl, exec_clear s⟩

/-- Settles O16: the answer is `count`, which the FIFO's invariant bounds. -/
theorem countFollowsItsRule : Obligations.CountFollowsItsRule := by
  unfold Obligations.CountFollowsItsRule
  intro s
  refine ⟨decode_fifo_no_operand (i := .count) rfl rfl, exec_count s, fun t v hinv ht hv => ?_⟩
  cases (exec_count s).symm.trans ht
  cases hv
  exact hinv.count

end Sys2Proof.Machine

/-! ## The sequencer commands in their single step (41_connection_ops.md R101 to R109) -/

namespace Sys2Proof.Machine

variable {s t : State}

/-! The state each command answers on a live connection. -/

theorem exec_begin (ha : s.alive = true) : exec .begin s = onNext (beginConnection s) (·.respondSeq 0) :=
  ifAlive_of_alive ha

theorem exec_available (ha : s.alive = true) : exec .available s =
    .next (if s.initialized then (pullByte s).respondSeq (pullByte s).rx.count else s.respondSeq 0) :=
  ifAlive_of_alive ha

theorem exec_send (b : Byte) (ha : s.alive = true) : exec (.send b) s =
    .next (if s.initialized then sendOrSpin b s else s.respondSeq 0) :=
  ifAlive_of_alive ha

theorem exec_receive (ha : s.alive = true) : exec .receive s =
    .next (if s.initialized then { s with rx := s.rx.drop s.cfg.nRx }.respondSeq s.rxHead.toNat
      else s.respondSeq 0) :=
  ifAlive_of_alive ha

theorem exec_isinit (ha : s.alive = true) : exec .isinit s = .next (s.respondSeq (rspBool s.initialized)) :=
  ifAlive_of_alive ha

theorem exec_destroy (ha : s.alive = true) : exec .destroy s =
    .next ({ s.disableTransport with alive := false }.respondSeq 0) :=
  ifAlive_of_alive ha

/-- While uninitialized the gated commands answer 0, which for ISINIT is the flag (R101). -/
theorem exec_gated_uninitialized {i : Instr}
    (hgated : i = .available ∨ (∃ b, i = .send b) ∨ i = .receive ∨ i = .isinit) (ha : s.alive = true)
    (hi : s.initialized = false) : exec i s = .next (s.respondSeq 0) := by
  have hclear : ¬ s.initialized = true := by simp [hi]
  rcases hgated with rfl | ⟨b, rfl⟩ | rfl | rfl
  · rw [exec_available ha, if_neg hclear]
  · rw [exec_send b ha, if_neg hclear]
  · rw [exec_receive ha, if_neg hclear]
  · rw [exec_isinit ha, hi, rspBool, if_neg Bool.false_ne_true]

/-! The two cases of BEGIN that answer a state (R102). -/

theorem beginConnection_initialized (hi : s.initialized = true) : beginConnection s = .next s := if_pos hi

theorem beginConnection_uninitialized (hi : s.initialized = false)
    (hfits : s.cfg.backend = .hardware → s.divisorTooWide = false) :
    beginConnection s = .next { s.bringUp with initialized := true } := by
  cases hb : s.cfg.backend with
  | hardware => simp [beginConnection, hi, hfits hb]
  | mock => simp [beginConnection, hi, hb]

/-! One poll decides what AVAILABLE and SEND do on hardware (42_backend_primitives.md R133, R134). -/

theorem pullByte_notReady (hb : s.cfg.backend = .hardware) (hf : s.drawnFlag = false) : pullByte s = s.srReadRx := by
  rcases pullByte_cases s with ⟨_, _, he⟩ | ⟨_, hready, _⟩ | ⟨hmock, _⟩
  · exact he
  · cases hf.symm.trans hready
  · cases hb.symm.trans hmock

theorem pullByte_ready (hb : s.cfg.backend = .hardware) (hf : s.drawnFlag = true) :
    pullByte s = s.srReadRx.rhrRead.stage s.env.next.value := by
  rcases pullByte_cases s with ⟨_, hbusy, _⟩ | ⟨_, _, he⟩ | ⟨hmock, _⟩
  · cases hf.symm.trans hbusy
  · exact he
  · cases hb.symm.trans hmock

theorem sendOrSpin_busy (b : Byte) (hb : s.cfg.backend = .hardware) (hf : s.drawnFlag = false) :
    sendOrSpin b s = { s.srReadTx with seq := .sPoll, txByte := b, seqRsp := none } := by
  rcases sendOrSpin_cases b s with ⟨_, _, he⟩ | ⟨_, hready, _⟩ | ⟨hmock, _⟩
  · exact he
  · cases hf.symm.trans hready
  · cases hb.symm.trans hmock

theorem sendOrSpin_ready (b : Byte) (hb : s.cfg.backend = .hardware) (hf : s.drawnFlag = true) :
    sendOrSpin b s = (s.srReadTx.thrWrite b).respondSeq 1 := by
  rcases sendOrSpin_cases b s with ⟨_, hbusy, _⟩ | ⟨_, _, he⟩ | ⟨hmock, _⟩
  · cases hf.symm.trans hbusy
  · exact he
  · cases hb.symm.trans hmock

theorem sendOrSpin_mock (b : Byte) (hb : s.cfg.backend = .mock) : sendOrSpin b s = s.respondSeq 1 := by
  rcases sendOrSpin_cases b s with ⟨hhard, _⟩ | ⟨hhard, _⟩ | ⟨_, he⟩
  · cases hb.symm.trans hhard
  · cases hb.symm.trans hhard
  · exact he

theorem disableTransport_hardware (hb : s.cfg.backend = .hardware) : s.disableTransport = s.txrxDisable := by
  simp only [State.disableTransport, hb]

theorem disableTransport_mock (hb : s.cfg.backend = .mock) : s.disableTransport = s := by
  simp only [State.disableTransport, hb]

/-! A poll is a read of the flag that is drawn (20_memory.md R54, R55). -/

theorem srReadRx_of_flag {flag : Bool} (hf : s.drawnFlag = flag) : s.srReadRx = s.periphRead (.rxrdy flag) := by
  rw [State.srReadRx, hf]

theorem srReadTx_of_flag {flag : Bool} (hf : s.drawnFlag = flag) : s.srReadTx = s.periphRead (.txrdy flag) := by
  rw [State.srReadTx, hf]

/-- What AVAILABLE appends when a byte waits: the poll, then the read of `RHR`. -/
theorem pullByte_ready_events (hb : s.cfg.backend = .hardware) (hf : s.drawnFlag = true) :
    (pullByte s).events =
      s.events ++ [⟨.read, s.ctrl, .sr, .rxrdy true⟩, ⟨.read, s.ctrl, .rhr, .rxchr s.env.next.value⟩] := by
  rw [pullByte_ready hb hf, srReadRx_of_flag hf]
  exact List.append_assoc _ _ _

/-- What SEND appends when the transmitter is ready: the poll, then the write of `THR`. -/
theorem thrWrite_srReadTx_events (b : Byte) (hf : s.drawnFlag = true) : (s.srReadTx.thrWrite b).events =
    s.events ++ [⟨.read, s.ctrl, .sr, .txrdy true⟩, ⟨.write, s.ctrl, .thr, .txchr b⟩] := by
  rw [srReadTx_of_flag hf]
  exact List.append_assoc _ _ _

/-! What RECEIVE answers (R105). -/

theorem State.rxHead_empty (h : s.rx.count = 0) : s.rxHead = 0#8 := Fifo.head_empty s.rx _ _ h

theorem State.rxHead_some (h : s.rx.count ≠ 0) : s.rxHead = s.rx.slotRead Config.unwrittenByte s.rx.rd :=
  Fifo.head_some s.rx _ _ h

/-! ### The statements about AVAILABLE, BEGIN, SEND, RECEIVE, ISINIT and DESTROY -/

/-- Settles O29: the two reads stage the byte, and PUSH on `rx` has its two cases. -/
theorem availableStagesExactlyOneByte : Obligations.AvailableStagesExactlyOneByte := by
  unfold Obligations.AvailableStagesExactlyOneByte
  rintro s b ha hi hb hf rfl
  have hpull : pullByte s = s.srReadRx.rhrRead.stage s.env.next.value := pullByte_ready hb hf
  have hrx : (pullByte s).rx = s.rx.push s.cfg.nRx s.env.next.value := by rw [hpull]; rfl
  have henv : (pullByte s).env = s.env.next.next := by rw [hpull]; rfl
  have hlog : (pullByte s).seqLog = s.seqLog := by rw [hpull]; rfl
  refine ⟨(pullByte s).respondSeq (pullByte s).rx.count, ?_, pullByte_ready_events hb hf, henv, fun hfull => ?_,
    fun hroom => ?_, rfl, ?_, (pullByte_sameButRx s).respondSeq _⟩
  · rw [exec_available ha, if_pos hi]
  · exact hrx.trans (Fifo.push_full _ _ _ hfull)
  · rw [State.respondSeq_rx, hrx]
    exact ⟨Fifo.push_stored_wr _ _ _ hroom, Fifo.push_stored_other _ _ _, Fifo.push_rd _ _ _,
      Fifo.push_wr _ hroom, by rw [Fifo.push_count, if_neg hroom]⟩
  · rw [State.respondSeq_seqLog, hlog, State.respondSeq_rx]

/-- Settles O23: an initialized BEGIN leaves the state, and the mock's bring-up does. -/
theorem beginWithoutAccess : Obligations.BeginWithoutAccess := by
  unfold Obligations.BeginWithoutAccess
  intro s ha
  refine ⟨fun hi => ?_, fun hi hb => ?_⟩
  · rw [exec_begin ha, beginConnection_initialized hi]
    rfl
  · rw [exec_begin ha, beginConnection_uninitialized hi (by simp [hb]), s.bringUp_mock hb]
    rfl

/-- Settles O27: each of the four commands tests the flag before it does anything. -/
theorem gatedCommandsAreNeutralWhileUninitialized : Obligations.GatedCommandsAreNeutralWhileUninitialized := by
  unfold Obligations.GatedCommandsAreNeutralWhileUninitialized
  exact fun _ _ hgated => exec_gated_uninitialized hgated

/-- Settles O28: the poll that draws 0 is all AVAILABLE does. -/
theorem availableWithNothingWaiting : Obligations.AvailableWithNothingWaiting := by
  unfold Obligations.AvailableWithNothingWaiting
  intro s ha hi hb hf
  rw [exec_available ha, if_pos hi, pullByte_notReady hb hf, srReadRx_of_flag hf]
  rfl

/-- Settles O31: the turn of SEND that finds the transmitter ready, and that of the mock. -/
theorem sendCompletesWhenReady : Obligations.SendCompletesWhenReady := by
  unfold Obligations.SendCompletesWhenReady
  intro s b ha hi
  refine ⟨fun hb hf => ?_, fun hb => ?_⟩
  · rw [exec_send b ha, if_pos hi, sendOrSpin_ready b hb hf, ← thrWrite_srReadTx_events b hf]
    rfl
  · rw [exec_send b ha, if_pos hi, sendOrSpin_mock b hb]
    rfl

/-- Settles O35: RECEIVE answers the head of `rx` and drops it, in the two cases of each. -/
theorem receivePopsTheStagedByte : Obligations.ReceivePopsTheStagedByte := by
  unfold Obligations.ReceivePopsTheStagedByte
  intro s ha
  refine ⟨decode_ok_iff_encode.mpr ⟨rfl, rfl, rfl⟩, fun hneutral => ?_, fun v hi hsome hv => ?_⟩
  · by_cases hi : s.initialized = true
    · have hempty : s.rx.count = 0 := hneutral.resolve_left (by simp [hi])
      rw [exec_receive ha, if_pos hi, Fifo.drop_empty _ _ hempty, State.rxHead_empty hempty]
      rfl
    · exact exec_gated_uninitialized (.inr (.inr (.inl rfl))) ha (eq_false_of_ne_true hi)
  · rw [exec_receive ha, if_pos hi, Fifo.drop_some _ _ hsome, State.rxHead_some hsome, hv]
    rfl

/-- Settles O36: ISINIT answers the flag's value as a number. -/
theorem isinitReportsTheFlag : Obligations.IsinitReportsTheFlag := by
  unfold Obligations.IsinitReportsTheFlag
  intro s ha
  exact ⟨decode_ok_iff_encode.mpr ⟨rfl, rfl, rfl⟩, exec_isinit ha⟩

/-- Settles O38: DESTROY disables the transport of its backend; it leaves `alive` clear, for which every sequencer
command is refused. -/
theorem destroyDisablesAndEnds : Obligations.DestroyDisablesAndEnds := by
  unfold Obligations.DestroyDisablesAndEnds
  intro s ha
  refine ⟨decode_ok_iff_encode.mpr ⟨rfl, rfl, rfl⟩, fun hb => ?_, fun hb => ?_, fun i t ht hport => ?_⟩
  · rw [exec_destroy ha, disableTransport_hardware hb]
    rfl
  · rw [exec_destroy ha, disableTransport_mock hb]
    rfl
  · exact exec_refused.mpr ⟨hport, .inl ⟨exec_destroy_alive ht, rfl⟩⟩

end Sys2Proof.Machine

/-! ## The walk of `seq` (41_connection_ops.md R117; log entry 5) -/

namespace Sys2Proof.Machine

variable {s t : State}

theorem run_succ_of_next {M : Host.Core} {u v : M.State} (k : Nat) (h : M.step u = .next v) :
    M.run (k + 1) u = M.run k v := by
  simp only [Host.Core.run, h]

theorem run_succ_of_step (k : Nat) (h : step s = .next t) : core.run (k + 1) s = core.run k t :=
  run_succ_of_next (M := core) k h

/-! What each phase does, from a state that is put in it. -/

theorem phase_bRelease (s : State) : phase (s.goto .bRelease) = .next (s.pmxRelease.goto .bAssign) := rfl

theorem phase_bAssign (s : State) : phase (s.goto .bAssign) = .next (s.pmxAssign.goto .bClock) := rfl

theorem phase_bClock (s : State) : phase (s.goto .bClock) = .next (s.clkEnable.goto .bDisable) := rfl

theorem phase_bDisable (s : State) : phase (s.goto .bDisable) = .next (s.txrxDisable.goto .bBaud) := rfl

theorem phase_bBaud (s : State) (hw : s.divisorTooWide = false) :
    phase (s.goto .bBaud) = .next (s.brgWrite.goto .bMode) :=
  if_neg (ne_true_of_eq_false hw)

theorem phase_bMode (s : State) : phase (s.goto .bMode) = .next (s.modeWrite.goto .bImask) := rfl

theorem phase_bImask (s : State) : phase (s.goto .bImask) = .next (s.intMaskAll.goto .bEnable) := rfl

theorem phase_bEnable (s : State) : phase (s.goto .bEnable) = .next (s.txrxEnable.goto .bDone) := rfl

theorem phase_bDone (s : State) : phase (s.goto .bDone) = .next ({ s with initialized := true }.finish 0) := rfl

theorem phase_sPoll (s : State) :
    phase (s.goto .sPoll) = .next (s.srReadTx.goto (if s.drawnFlag then .sWrite else .sPoll)) := rfl

theorem phase_sWrite (s : State) : phase (s.goto .sWrite) = .next ((s.thrWrite s.txByte).finish 1) := rfl

theorem phase_aPoll (s : State) : phase (s.goto .aPoll) =
    .next (if s.drawnFlag then s.srReadRx.goto .aRead else s.srReadRx.finish s.rx.count) := rfl

theorem phase_aRead (s : State) : phase (s.goto .aRead) =
    .next ((s.rhrRead.stage s.env.value).finish (s.rx.push s.cfg.nRx s.env.value).count) := rfl

/-- A command that began in IDLE ends in the state its one step answers. -/
theorem State.finish_of_idle (hs : s.seq = .idle) (v : Nat) : s.finish v = s.respondSeq v := by
  rw [State.finish, ← hs]

/-- Both ports are silent: the host has nothing pending and no response is driven (30_encoding.md R60, R67). -/
def State.Silent (s : State) : Prop := s.inputs = [] ∧ s.fifoRsp = none ∧ s.seqRsp = none

theorem State.Silent.goto (h : s.Silent) (p : Phase) : (s.goto p).Silent := h

theorem State.Silent.periphWrite (h : s.Silent) (v : PVal) : (s.periphWrite v).Silent := h

theorem State.Silent.periphRead (h : s.Silent) (v : PVal) : (s.periphRead v).Silent := h

theorem State.Silent.quiet (h : s.Silent) : s.quiet = s := by
  obtain ⟨_, hfifo, hseq⟩ := h
  cases s
  cases hfifo
  cases hseq
  rfl

/-- With silent ports a step is a phase. -/
theorem State.Silent.step_eq_phase (h : s.Silent) : step s = phase s := by
  have hdue : s.due = [] := by simp [State.due, h.1]
  rw [step_nothing_due hdue, h.quiet]

/-- The walk goes on from the state a phase answers. -/
theorem State.Silent.run_phase (h : s.Silent) {p : Phase} {k : Nat} (hp : phase (s.goto p) = .next t) :
    core.run (k + 1) (s.goto p) = core.run k t :=
  run_succ_of_step k ((h.goto p).step_eq_phase.trans hp)

/-- A phase that makes a write leaves the ports silent for the next one. -/
theorem State.Silent.run_write (h : s.Silent) {p q : Phase} {v : PVal} (k : Nat)
    (hp : phase (s.goto p) = .next (t.goto q)) (hv : t = s.periphWrite v) :
    core.run (k + 1) (s.goto p) = core.run k (t.goto q) ∧ t.Silent :=
  ⟨h.run_phase hp, hv ▸ h.periphWrite v⟩

/-! The walk of each command. -/

/-- From B_RELEASE nine phases make the eight accesses of the bring-up, set the flag and answer. -/
theorem State.Silent.run_begin (h : s.Silent) (hb : s.cfg.backend = .hardware) (hs : s.seq = .idle)
    (hw : s.divisorTooWide = false) :
    core.run 9 (s.goto .bRelease) = .next ({ s.bringUp with initialized := true }.respondSeq 0) := by
  have hup : s.bringUp = s.pmxRelease.pmxAssign.clkEnable.txrxDisable.brgWrite.modeWrite.intMaskAll.txrxEnable := by
    simp only [State.bringUp, hb]
  have hidle : { s.bringUp with initialized := true }.seq = .idle := (bringUp_seq s).trans hs
  obtain ⟨release, h⟩ := h.run_write 8 (phase_bRelease s) rfl
  obtain ⟨assign, h⟩ := h.run_write 7 (phase_bAssign _) rfl
  obtain ⟨clock, h⟩ := h.run_write 6 (phase_bClock _) rfl
  obtain ⟨disable, h⟩ := h.run_write 5 (phase_bDisable _) rfl
  obtain ⟨divisor, h⟩ := h.run_write 4 (phase_bBaud _ hw) rfl
  obtain ⟨mode, h⟩ := h.run_write 3 (phase_bMode _) rfl
  obtain ⟨mask, h⟩ := h.run_write 2 (phase_bImask _) rfl
  obtain ⟨enable, h⟩ := h.run_write 1 (phase_bEnable _) rfl
  rw [hup] at hidle ⊢
  rw [release, assign, clock, disable, divisor, mode, mask, enable, h.run_phase (phase_bDone _),
    State.finish_of_idle hidle]
  rfl

/-- From A_POLL a flag of 0 ends AVAILABLE in that phase. -/
theorem State.Silent.run_available_notReady (h : s.Silent) (hs : s.seq = .idle) (hf : s.drawnFlag = false) :
    core.run 1 (s.goto .aPoll) = .next (s.srReadRx.respondSeq s.rx.count) := by
  have hpoll : phase (s.goto .aPoll) = .next (s.srReadRx.finish s.rx.count) := by
    rw [phase_aPoll, if_neg (ne_true_of_eq_false hf)]
  have hidle : s.srReadRx.seq = .idle := hs
  rw [h.run_phase hpoll, State.finish_of_idle hidle]
  rfl

/-- From A_POLL a flag of 1 leads to A_READ, which stages the byte and answers the new count. -/
theorem State.Silent.run_available_ready (h : s.Silent) (hs : s.seq = .idle) (hf : s.drawnFlag = true) :
    core.run 2 (s.goto .aPoll) = .next ((s.srReadRx.rhrRead.stage s.env.next.value).respondSeq
      (s.rx.push s.cfg.nRx s.env.next.value).count) := by
  have hpoll : phase (s.goto .aPoll) = .next (s.srReadRx.goto .aRead) := by rw [phase_aPoll, if_pos hf]
  have hpolled : s.srReadRx.Silent := h.periphRead _
  have hidle : (s.srReadRx.rhrRead.stage s.env.next.value).seq = .idle := hs
  rw [h.run_phase hpoll, hpolled.run_phase (phase_aRead _), ← State.finish_of_idle hidle]
  rfl

/-- From S_POLL a flag of 0 leads back to S_POLL. -/
theorem State.Silent.run_send_busy (h : s.Silent) (hf : s.drawnFlag = false) :
    core.run 1 (s.goto .sPoll) = .next (s.srReadTx.goto .sPoll) := by
  have hpoll : phase (s.goto .sPoll) = .next (s.srReadTx.goto .sPoll) := by
    rw [phase_sPoll, if_neg (ne_true_of_eq_false hf)]
  exact h.run_phase (k := 0) hpoll

/-- From S_POLL a flag of 1 leads to S_WRITE, which hands over the latched byte and answers true. -/
theorem State.Silent.run_send_ready (h : s.Silent) (hs : s.seq = .idle) (hf : s.drawnFlag = true) :
    core.run 2 (s.goto .sPoll) = .next ((s.srReadTx.thrWrite s.txByte).respondSeq 1) := by
  have hpoll : phase (s.goto .sPoll) = .next (s.srReadTx.goto .sWrite) := by rw [phase_sPoll, if_pos hf]
  have hpolled : s.srReadTx.Silent := h.periphRead _
  have hidle : (s.srReadTx.thrWrite s.txByte).seq = .idle := hs
  rw [h.run_phase hpoll, hpolled.run_phase (phase_sWrite _), ← State.finish_of_idle hidle]
  rfl

/-- Settles O53: each walk ends in the state its command's one step answers. -/
theorem commandsRefineTheirPhases : Obligations.CommandsRefineTheirPhases := by
  unfold Obligations.CommandsRefineTheirPhases
  intro s ha hb hs hin hfifo hseq
  have hsilent : s.Silent := ⟨hin, hfifo, hseq⟩
  refine ⟨fun hi hw => ?_, fun hi hf => ?_, fun hi hf => ?_, fun b hi hf => ?_, fun b hi hf => ?_⟩
  · rw [exec_begin ha, beginConnection_uninitialized hi fun _ => hw]
    exact hsilent.run_begin hb hs hw
  · rw [exec_available ha, if_pos hi, pullByte_notReady hb hf]
    exact hsilent.run_available_notReady hs hf
  · rw [exec_available ha, if_pos hi, pullByte_ready hb hf]
    exact hsilent.run_available_ready hs hf
  · have hturn : exec (.send b) { s with txByte := b } = .next (sendOrSpin b { s with txByte := b }) := by
      rw [exec_send (s := { s with txByte := b }) b ha]
      exact congrArg Host.Outcome.next (if_pos hi)
    rw [hturn, sendOrSpin_ready (s := { s with txByte := b }) b hb hf]
    exact State.Silent.run_send_ready (s := { s with txByte := b }) hsilent hs hf
  · rw [exec_send b ha, if_pos hi, sendOrSpin_busy b hb hf, ← hseq]
    exact State.Silent.run_send_busy (s := { s with txByte := b }) hsilent hf

end Sys2Proof.Machine

/-! ## The pseudo-instructions (30_encoding.md R70; 41_connection_ops.md R110 to R114; log entry 13) -/

namespace Sys2Proof.Machine

variable {s t : State} {p : Pseudo}

/-! What the host makes of each form. -/

theorem encode_send (w : Nat) (b : Byte) : encode w (.send b) = 0x300 + b.toNat := by
  simp only [encode, opcode, lowField, Instr.port, lowWidth, Nat.reducePow, Nat.reduceMul]

theorem commandInput_send (b : Byte) : commandInput (.send b) = .seqCmd (0x300 + b.toNat) := by
  rw [commandInput, encode_send]

theorem sendInputs_eq_map (bytes : List Byte) :
    sendInputs bytes = bytes.map fun b => .seqCmd (0x300 + b.toNat) := by
  simp only [sendInputs, commandInput_send]

theorem decode_send (w : Nat) (b : Byte) : decode w .seq (0x300 + b.toNat) = .ok (.send b) :=
  decode_ok_iff_encode.mpr ⟨rfl, rfl, encode_send w b⟩

/-- The text of a terminated sequence is what stands before its first zero byte (R111). -/
theorem beforeZero_append_zero {text : List Byte} (junk : List Byte) (htext : ∀ b ∈ text, b ≠ 0#8) :
    beforeZero (text ++ 0#8 :: junk) = some text := by
  induction text with
  | nil => exact if_pos rfl
  | cons b bs ih =>
    obtain ⟨hb, hbs⟩ := List.forall_mem_cons.mp htext
    rw [List.cons_append, beforeZero, if_neg hb, ih hbs, Option.map_some]

/-- SENDZ of terminated text is SENDN of the text. -/
theorem expand_sendz {text : List Byte} (initialized : Bool) (junk : List Byte) (htext : ∀ b ∈ text, b ≠ 0#8) :
    expand initialized (.sendz (text ++ 0#8 :: junk)) = expand initialized (.sendn text) := by
  simp only [expand, beforeZero_append_zero junk htext]

/-- INS of terminated text is INS of the text's bytes. -/
theorem expand_insText {text : List Byte} (initialized : Bool) (junk : List Byte) (htext : ∀ b ∈ text, b ≠ 0#8) :
    expand initialized (.insText (text ++ 0#8 :: junk)) = expand initialized (.insBytes text) := by
  simp only [expand, beforeZero_append_zero junk htext]

/-! The step that replaces a pseudo-instruction, and the step that takes the mark of a result. -/

theorem step_pseudo {rest : List Input} (hin : s.inputs = .pseudo p :: rest) (hs : s.seq = .idle) :
    step s = runPseudo p (s.quiet.pending rest) := by
  rw [step_of_due ⟨(State.due_of_idle hs).trans hin, State.held_of_idle hs⟩]
  rfl

theorem runPseudo_expanded {commands : List Input} (ha : s.alive = true)
    (he : expand s.initialized p = .ok commands) : runPseudo p s = .next (s.pending (commands ++ s.inputs)) := by
  rw [runPseudo, ifAlive_of_alive ha, he]

theorem runPseudo_congr {q : Pseudo} (he : expand s.initialized p = expand s.initialized q) :
    runPseudo p s = runPseudo q s := by
  rw [runPseudo, runPseudo, he]

/-- The host's commands take the place of the form, and the blocks do nothing. -/
theorem step_expanded {commands rest : List Input} (hin : s.inputs = .pseudo p :: rest) (hs : s.seq = .idle)
    (ha : s.alive = true) (he : expand s.initialized p = .ok commands) :
    step s = .next (s.quiet.pending (commands ++ rest)) := by
  rw [step_pseudo hin hs]
  exact runPseudo_expanded (s := s.quiet.pending rest) ha he

/-- Unterminated text is refused before the gate is tested. -/
theorem step_unterminated {bytes : List Byte} {rest : List Input} (hp : p = .sendz bytes ∨ p = .insText bytes)
    (hin : s.inputs = .pseudo p :: rest) (hs : s.seq = .idle) (ha : s.alive = true) (hz : ∀ b ∈ bytes, b ≠ 0#8) :
    step s = .refused .noTerminator := by
  rw [step_pseudo hin hs]
  exact runPseudo_refused.mpr (.inr ⟨rfl, ha, bytes, hp, hz⟩)

theorem step_hostResult {result : Bool} {rest : List Input} (hin : s.inputs = .hostResult result :: rest)
    (hs : s.seq = .idle) : step s = .next { s.quiet.pending rest with hostLog := s.hostLog ++ [result] } := by
  rw [step_of_due ⟨(State.due_of_idle hs).trans hin, State.held_of_idle hs⟩]
  rfl

/-- One SEND word on an initialized mock connection is answered with true in its step (42_backend_primitives.md
R144). -/
theorem step_send_mock {b : Byte} {rest : List Input} (hin : s.inputs = commandInput (.send b) :: rest)
    (hs : s.seq = .idle) (ha : s.alive = true) (hi : s.initialized = true) (hb : s.cfg.backend = .mock) :
    step s = .next ((s.quiet.pending rest).respondSeq 1) := by
  have hexec : exec (.send b) (s.quiet.pending rest) = .next (sendOrSpin b (s.quiet.pending rest)) :=
    (exec_send (s := s.quiet.pending rest) b ha).trans (congrArg Host.Outcome.next (if_pos hi))
  have hmock : sendOrSpin b (s.quiet.pending rest) = (s.quiet.pending rest).respondSeq 1 := sendOrSpin_mock b hb
  rw [commandInput_send] at hin
  rw [step_seqCmd hin hs, takeWord_of_decode (decode_send _ b), hexec, hmock]

/-- The SEND words of a list and the mark behind them, on an initialized mock connection: one step for each. -/
theorem run_sendInputs_mock (bytes : List Byte) (result : Bool)
    (hin : s.inputs = sendInputs bytes ++ [.hostResult result]) (hs : s.seq = .idle) (ha : s.alive = true)
    (hi : s.initialized = true) (hb : s.cfg.backend = .mock) :
    core.run (bytes.length + 1) s = .next { s.quiet.pending [] with
      seqLog := s.seqLog ++ List.replicate bytes.length 1
      hostLog := s.hostLog ++ [result] } := by
  induction bytes generalizing s with
  | nil =>
    rw [run_succ_of_step _ (step_hostResult hin hs), List.length_nil, List.replicate_zero, List.append_nil]
    rfl
  | cons b bs ih =>
    have hsend := step_send_mock (rest := sendInputs bs ++ [.hostResult result]) hin hs ha hi hb
    have hrest := ih (s := (s.quiet.pending (sendInputs bs ++ [.hostResult result])).respondSeq 1) rfl hs ha hi hb
    rw [List.length_cons, run_succ_of_step _ hsend, hrest, List.replicate_succ, State.respondSeq_seqLog,
      List.append_assoc]
    rfl

/-! ### The statements about pseudo-instructions -/

/-- Settles O56: the first step puts the SEND words and the mark in place of the form, and the mock accepts every
byte. -/
theorem sendnCompletesOnTheMock : Obligations.SendnCompletesOnTheMock := by
  unfold Obligations.SendnCompletesOnTheMock
  intro s bytes hin hs ha hi hb
  have hfirst : step s = .next (s.quiet.pending (sendInputs bytes ++ [.hostResult true])) := by
    rw [step_expanded hin hs ha rfl, expandSendN, if_pos hi, List.append_nil]
  rw [run_succ_of_step _ hfirst]
  exact run_sendInputs_mock bytes true rfl hs ha hi hb

/-- Settles O57: both steps expand to the same commands; without a terminator the expansion is refused. -/
theorem sendzSendsTheTextBeforeTheZero : Obligations.SendzSendsTheTextBeforeTheZero := by
  unfold Obligations.SendzSendsTheTextBeforeTheZero
  intro s rest bytes hin hs ha
  refine ⟨fun text junk hbytes htext => ?_, fun hz => step_unterminated (.inl rfl) hin hs ha hz⟩
  subst hbytes
  rw [step_pseudo hin hs, step_pseudo (s := { s with inputs := .pseudo (.sendn text) :: rest }) rfl hs]
  exact runPseudo_congr (expand_sendz _ junk htext)

/-- Settles O55: the two cases of the expansion, and the step of the mark. -/
theorem sendnIsOneSendPerByte : Obligations.SendnIsOneSendPerByte := by
  unfold Obligations.SendnIsOneSendPerByte
  refine ⟨fun s bytes rest hin hs ha => ⟨fun hi => ?_, fun hi => ?_⟩, fun s result rest hin hs =>
    step_hostResult hin hs⟩
  · rw [step_expanded hin hs ha rfl, expandSendN, if_pos hi, sendInputs_eq_map, List.append_assoc]
    rfl
  · have hfirst : step s = .next (s.quiet.pending (.hostResult false :: rest)) := by
      rw [step_expanded hin hs ha rfl, expandSendN, if_neg (ne_true_of_eq_false hi)]
      rfl
    refine ⟨hfirst, ?_⟩
    rw [run_succ_of_step 1 hfirst]
    exact run_succ_of_step 0 (step_hostResult rfl hs)

/-- Settles O58: each form expands to its words; the text forms are those of the text, or are refused. -/
theorem streamFormsAreSendAndReceive : Obligations.StreamFormsAreSendAndReceive := by
  unfold Obligations.StreamFormsAreSendAndReceive
  intro s rest b bytes hs ha
  have hform {p : Pseudo} {commands : List Input} (he : expand s.initialized p = .ok commands) :
      step { s with inputs := .pseudo p :: rest } =
        .next { s with inputs := commands ++ rest, fifoRsp := none, seqRsp := none } :=
    step_expanded (s := { s with inputs := .pseudo p :: rest }) rfl hs ha he
  refine ⟨?_, ?_, ?_, ?_, ?_, fun junk htext => ?_, fun hz => ?_⟩
  · rw [hform (p := .putc b) rfl, commandInput_send]
    rfl
  · rw [hform (p := .ins b) rfl, commandInput_send]
    rfl
  · exact hform (p := .getc) rfl
  · exact hform (p := .ext) rfl
  · rw [hform (p := .insBytes bytes) rfl, expandInsert, sendInputs_eq_map]
  · rw [step_pseudo (s := { s with inputs := .pseudo (.insText (bytes ++ 0#8 :: junk)) :: rest }) rfl hs,
      step_pseudo (s := { s with inputs := .pseudo (.insBytes bytes) :: rest }) rfl hs]
    exact runPseudo_congr (expand_insText _ junk htext)
  · exact step_unterminated (s := { s with inputs := .pseudo (.insText bytes) :: rest }) (.inr rfl) rfl hs ha hz

end Sys2Proof.Machine

/-! ## The accesses of BEGIN, of a busy SEND, of ENABLE and of DISABLE (42_backend_primitives.md R131 to R150) -/

namespace Sys2Proof.Machine

variable {s t : State}

/-! What the two backends do in the primitives that need no draw, and the commands built on them. -/

theorem enableTransport_hardware (hb : s.cfg.backend = .hardware) : s.enableTransport = s.txrxEnable := by
  simp only [State.enableTransport, hb]

theorem enableTransport_mock (hb : s.cfg.backend = .mock) : s.enableTransport = s := by
  simp only [State.enableTransport, hb]

theorem pullByte_mock (hb : s.cfg.backend = .mock) : pullByte s = s.stage Config.mockSentinel := by
  rcases pullByte_cases s with ⟨hhard, _⟩ | ⟨hhard, _⟩ | ⟨_, he⟩
  · cases hb.symm.trans hhard
  · cases hb.symm.trans hhard
  · exact he

theorem exec_enable (ha : s.alive = true) : exec .enable s = .next (s.enableTransport.respondSeq 0) :=
  ifAlive_of_alive ha

theorem exec_disable (ha : s.alive = true) : exec .disable s = .next (s.disableTransport.respondSeq 0) :=
  ifAlive_of_alive ha

/-- A divisor below `2 ^ BRG_W` passes the test of BEGIN (R138). -/
theorem divisorTooWide_of_lt (h : s.cfg.clkConst / s.baud.toNat < 2 ^ s.cfg.brgW) : s.divisorTooWide = false :=
  decide_eq_false (Nat.not_le_of_lt h)

/-! ### The statements about the bring-up, the tables, the busy poll, ENABLE and DISABLE -/

/-- Settles O22: the bring-up of the hardware, and then the flag and the response. -/
theorem beginOnHardwareRunsTheBringUp : Obligations.BeginOnHardwareRunsTheBringUp := by
  unfold Obligations.BeginOnHardwareRunsTheBringUp
  intro s ha hi hb hfits
  rw [exec_begin ha, beginConnection_uninitialized hi fun _ => divisorTooWide_of_lt hfits, s.bringUp_hardware hb]
  rfl

/-- Settles O24: on a live connection BEGIN is refused for its divisor alone. -/
theorem wideDivisorIsRefused : Obligations.WideDivisorIsRefused := by
  unfold Obligations.WideDivisorIsRefused
  intro s ha hi hb hwide
  have hrefused : beginConnection s = .refused .divisorTooWide := beginConnection_refused.mpr ⟨rfl, hi, hb, hwide⟩
  exact exec_refused.mpr ⟨rfl, .inr ⟨ha, rfl, hrefused⟩⟩

/-- Settles O25: the bounds are those of a quotient by a positive number. -/
theorem divisorIsTheRoundedDownQuotient : Obligations.DivisorIsTheRoundedDownQuotient := by
  unfold Obligations.DivisorIsTheRoundedDownQuotient
  intro s hbaud
  have hpos : 0 < s.baud.toNat := Nat.pos_of_ne_zero fun h0 => hbaud (BitVec.eq_of_toNat_eq h0)
  refine ⟨Nat.div_mul_le_self _ _, ?_, Nat.div_eq_of_lt, rfl⟩
  rw [Nat.mul_comm]
  exact Nat.lt_mul_div_succ _ hpos

/-- Settles O26: the multiplexer table compares with `ALT_CTRL`, and a pin carries its identity and its line. -/
theorem controllerTablesAreStatic : Obligations.ControllerTablesAreStatic := by
  unfold Obligations.ControllerTablesAreStatic
  refine ⟨fun alt c => ?_, fun c c' => ⟨?_, ?_, ?_⟩⟩
  · by_cases hc : c = alt
    · simp [muxFnOf, hc]
    · simp [muxFnOf, hc]
  · exact fun hpin => Line.noConfusion (congrArg Pin.line hpin)
  · exact congrArg Pin.ctrl
  · exact congrArg Pin.ctrl

/-- Settles O32: the turn of SEND that finds the transmitter busy is one poll. -/
theorem sendWaitsWhileBusy : Obligations.SendWaitsWhileBusy := by
  unfold Obligations.SendWaitsWhileBusy
  intro s b ha hi hb hf
  rw [exec_send b ha, if_pos hi, sendOrSpin_busy b hb hf, srReadTx_of_flag hf]
  rfl

/-- Settles O37: each of the two commands is one write of `CR` on hardware and none on the mock. -/
theorem enableAndDisableWriteControlOnly : Obligations.EnableAndDisableWriteControlOnly := by
  unfold Obligations.EnableAndDisableWriteControlOnly
  intro s ha
  have henable : decode s.cfg.w .seq 0x600 = .ok .enable := decode_ok_iff_encode.mpr ⟨rfl, rfl, rfl⟩
  have hdisable : decode s.cfg.w .seq 0x700 = .ok .disable := decode_ok_iff_encode.mpr ⟨rfl, rfl, rfl⟩
  refine ⟨⟨henable, hdisable⟩, fun hb => ?_, fun hb => ?_⟩
  · rw [exec_enable ha, exec_disable ha, enableTransport_hardware hb, disableTransport_hardware hb]
    exact ⟨rfl, rfl⟩
  · rw [exec_enable ha, exec_disable ha, enableTransport_mock hb, disableTransport_mock hb]
    exact ⟨rfl, rfl⟩

end Sys2Proof.Machine

/-! ## The two backends side by side (42_backend_primitives.md R148)

What the hardware does beyond the mock stays in the fields in which twins may differ; everything else both do alike. -/

namespace Sys2Proof.Machine

variable {h h' m t : State}

/-- Two states that differ at most in what accesses change, and in the operand latch. -/
def SameButAccesses (s t : State) : Prop :=
  t = { s with events := t.events, periph := t.periph, env := t.env, txByte := t.txByte }

theorem bringUp_sameButAccesses (hb : h.cfg.backend = .hardware) : SameButAccesses h h.bringUp := by
  rw [h.bringUp_hardware hb]
  rfl

/-! What twins have in common. -/

theorem Twins.mock (tw : Twins h m) : m.cfg.backend = .mock := tw.1

theorem Twins.hardware (tw : Twins h m) : h.cfg.backend = .hardware := by rw [tw.2]

theorem Twins.alive (tw : Twins h m) : h.alive = m.alive := by rw [tw.2]

theorem Twins.initialized (tw : Twins h m) : h.initialized = m.initialized := by rw [tw.2]

theorem Twins.rx (tw : Twins h m) : h.rx = m.rx := by rw [tw.2]

theorem Twins.rxHead (tw : Twins h m) : h.rxHead = m.rxHead := by rw [State.rxHead, tw.rx, State.rxHead]

/-! What keeps twins twins: an access on the hardware side, and the same update of a common field on both. -/

theorem Twins.accesses (tw : Twins h m) (e : SameButAccesses h h') : Twins h' m := by
  refine ⟨tw.mock, ?_⟩
  rw [e, tw.2]

theorem Twins.respondSeq (tw : Twins h m) (v : Nat) : Twins (h.respondSeq v) (m.respondSeq v) := by
  refine ⟨tw.mock, ?_⟩
  rw [tw.2]
  rfl

theorem Twins.stage (tw : Twins h m) (b : Byte) : Twins (h.stage b) (m.stage b) := by
  refine ⟨tw.mock, ?_⟩
  rw [tw.2]
  rfl

theorem Twins.dropRx (tw : Twins h m) :
    Twins { h with rx := h.rx.drop h.cfg.nRx } { m with rx := m.rx.drop m.cfg.nRx } := by
  refine ⟨tw.mock, ?_⟩
  rw [tw.2]

theorem Twins.setInitialized (tw : Twins h m) :
    Twins { h with initialized := true } { m with initialized := true } := by
  refine ⟨tw.mock, ?_⟩
  rw [tw.2]

theorem Twins.clearAlive (tw : Twins h m) : Twins { h with alive := false } { m with alive := false } := by
  refine ⟨tw.mock, ?_⟩
  rw [tw.2]

theorem Twins.enableTransport (tw : Twins h m) : Twins h.enableTransport m.enableTransport := by
  rw [enableTransport_hardware tw.hardware, enableTransport_mock tw.mock]
  exact tw.accesses rfl

theorem Twins.disableTransport (tw : Twins h m) : Twins h.disableTransport m.disableTransport := by
  rw [disableTransport_hardware tw.hardware, disableTransport_mock tw.mock]
  exact tw.accesses rfl

/-! What a command does to twins. -/

/-- Both connections answer the command, and are twins again. -/
def TwinsAnswer (i : Instr) (h m : State) : Prop := ∃ u t, exec i h = .next u ∧ exec i m = .next t ∧ Twins u t

/-- The FIFO's commands read and write only what twins have in common. -/
theorem Twins.answer_fifo (tw : Twins h m) {i : Instr} (hp : i.port = .fifo) : TwinsAnswer i h m := by
  obtain ⟨hmock, he⟩ := tw
  rw [he]
  cases i with
  | push _ | pop | peek | clear | count => exact ⟨_, _, rfl, rfl, hmock, rfl⟩
  | begin | available | send _ | receive | isinit | enable | disable | destroy => cases hp

/-- While uninitialized the gated commands answer both alike. -/
theorem Twins.answer_gated_uninitialized (tw : Twins h m) {i : Instr}
    (hgated : i = .available ∨ (∃ b, i = .send b) ∨ i = .receive ∨ i = .isinit) (ha : m.alive = true)
    (hi : m.initialized = false) : TwinsAnswer i h m :=
  ⟨_, _, exec_gated_uninitialized hgated (tw.alive.trans ha) (tw.initialized.trans hi),
    exec_gated_uninitialized hgated ha hi, tw.respondSeq 0⟩

/-- The eight accesses of the bring-up are the hardware's own. -/
theorem Twins.answer_begin (tw : Twins h m) (ha : m.alive = true) (hfits : h.divisorTooWide = false) :
    TwinsAnswer .begin h m := by
  unfold TwinsAnswer
  rw [exec_begin (tw.alive.trans ha), exec_begin ha]
  cases hi : m.initialized with
  | true =>
    rw [beginConnection_initialized (tw.initialized.trans hi), beginConnection_initialized hi]
    exact ⟨_, _, rfl, rfl, tw.respondSeq 0⟩
  | false =>
    have hup : Twins h.bringUp m.bringUp := by
      rw [m.bringUp_mock tw.mock]
      exact tw.accesses (bringUp_sameButAccesses tw.hardware)
    rw [beginConnection_uninitialized (tw.initialized.trans hi) fun _ => hfits,
      beginConnection_uninitialized hi (by simp [tw.mock])]
    exact ⟨_, _, rfl, rfl, hup.setInitialized.respondSeq 0⟩

/-- A ready poll and a drawn sentinel stage the byte the mock stages. -/
theorem Twins.pulledByte (tw : Twins h m) (hf : h.drawnFlag = true) (hv : h.env.next.value = Config.mockSentinel) :
    Twins (pullByte h) (pullByte m) := by
  have hpolled : Twins h.srReadRx.rhrRead m := tw.accesses rfl
  rw [pullByte_ready tw.hardware hf, pullByte_mock tw.mock, hv]
  exact hpolled.stage _

theorem Twins.answer_available (tw : Twins h m) (ha : m.alive = true) (hf : h.drawnFlag = true)
    (hv : h.env.next.value = Config.mockSentinel) : TwinsAnswer .available h m := by
  cases hi : m.initialized with
  | false => exact tw.answer_gated_uninitialized (.inl rfl) ha hi
  | true =>
    have hpulled := tw.pulledByte hf hv
    unfold TwinsAnswer
    rw [exec_available (tw.alive.trans ha), exec_available ha, if_pos (tw.initialized.trans hi),
      if_pos hi, hpulled.rx]
    exact ⟨_, _, rfl, rfl, hpulled.respondSeq _⟩

/-- A ready transmitter takes the byte in the step in which the mock drops it. -/
theorem Twins.answer_send (tw : Twins h m) (b : Byte) (ha : m.alive = true) (hf : h.drawnFlag = true) :
    TwinsAnswer (.send b) h m := by
  cases hi : m.initialized with
  | false => exact tw.answer_gated_uninitialized (.inr (.inl ⟨b, rfl⟩)) ha hi
  | true =>
    have hsent : Twins (h.srReadTx.thrWrite b) m := tw.accesses rfl
    unfold TwinsAnswer
    rw [exec_send b (tw.alive.trans ha), exec_send b ha, if_pos (tw.initialized.trans hi), if_pos hi,
      sendOrSpin_ready b tw.hardware hf, sendOrSpin_mock b tw.mock]
    exact ⟨_, _, rfl, rfl, hsent.respondSeq 1⟩

theorem Twins.answer_receive (tw : Twins h m) (ha : m.alive = true) : TwinsAnswer .receive h m := by
  cases hi : m.initialized with
  | false => exact tw.answer_gated_uninitialized (.inr (.inr (.inl rfl))) ha hi
  | true =>
    unfold TwinsAnswer
    rw [exec_receive (tw.alive.trans ha), exec_receive ha, if_pos (tw.initialized.trans hi), if_pos hi,
      tw.rxHead]
    exact ⟨_, _, rfl, rfl, tw.dropRx.respondSeq _⟩

theorem Twins.answer_isinit (tw : Twins h m) (ha : m.alive = true) : TwinsAnswer .isinit h m := by
  unfold TwinsAnswer
  rw [exec_isinit (tw.alive.trans ha), exec_isinit ha, tw.initialized]
  exact ⟨_, _, rfl, rfl, tw.respondSeq _⟩

/-- What the mock answers, its hardware twin answers, if the draws it meets are those the mock stands for. -/
theorem Twins.answer (tw : Twins h m) {i : Instr} (hfits : i = .begin → h.divisorTooWide = false)
    (hdraws : DrawsLikeMock h.env i) (ha : i.port = .seq → m.alive = true) : TwinsAnswer i h m := by
  cases i with
  | push _ | pop | peek | clear | count => exact tw.answer_fifo rfl
  | begin => exact tw.answer_begin (ha rfl) (hfits rfl)
  | available =>
    obtain ⟨hf, hv⟩ := hdraws
    exact tw.answer_available (ha rfl) hf hv
  | send b => exact tw.answer_send b (ha rfl) hdraws
  | receive => exact tw.answer_receive (ha rfl)
  | isinit => exact tw.answer_isinit (ha rfl)
  | enable =>
    exact ⟨_, _, exec_enable (tw.alive.trans (ha rfl)), exec_enable (ha rfl), tw.enableTransport.respondSeq 0⟩
  | disable =>
    exact ⟨_, _, exec_disable (tw.alive.trans (ha rfl)), exec_disable (ha rfl), tw.disableTransport.respondSeq 0⟩
  | destroy =>
    exact ⟨_, _, exec_destroy (tw.alive.trans (ha rfl)), exec_destroy (ha rfl),
      tw.disableTransport.clearAlive.respondSeq 0⟩

/-- A sequencer command that is answered found the connection alive (41_connection_ops.md R109). -/
theorem alive_of_exec_next {i : Instr} (he : exec i m = .next t) (hp : i.port = .seq) : m.alive = true := by
  cases ha : m.alive with
  | true => rfl
  | false => cases he.symm.trans (exec_refused.mpr ⟨hp, .inl ⟨ha, rfl⟩⟩)

/-- Settles O54: the mock's answer is the one its twin's goes with. -/
theorem hardwareCanStandForTheMock : Obligations.HardwareCanStandForTheMock := by
  unfold Obligations.HardwareCanStandForTheMock
  intro i h m t tw hfits hdraws ht
  obtain ⟨u, t', hu, ht', htw⟩ := tw.answer hfits hdraws (alive_of_exec_next ht)
  cases ht.symm.trans ht'
  exact ⟨u, hu, htw⟩

end Sys2Proof.Machine

/-! ## The mock's receive FIFO (42_backend_primitives.md R143, R145, R147) -/

namespace Sys2Proof.Machine

variable {α : Type} {n : Nat} {fits : α → Prop} {f : Fifo α} {s t : State}

/-- Within the capacity the count saturates at it (R81). -/
theorem FifoInv.push_count_eq_min (h : FifoInv n fits f) (v : α) : (f.push n v).count = min (f.count + 1) n := by
  have hle := h.count
  rw [Fifo.push_count]
  split
  · omega
  · omega

/-- An `rx` filled with the sentinel answers it, and 0 when empty (R147). -/
theorem rxHead_toNat_of_sentinels (h : FifoInv s.cfg.nRx (fun b => b = 0xAA#8) s.rx) :
    s.rxHead.toNat = if 0 < s.rx.count then 0xAA else 0 := by
  split
  next hpos =>
    have hhead : s.rx.head 0xAA#8 Config.unwrittenByte = 0xAA#8 := h.head_fits _ _ rfl
    rw [State.rxHead_some (Nat.ne_of_gt hpos), ← Fifo.head_some s.rx 0xAA#8 _ (Nat.ne_of_gt hpos), hhead]
    rfl
  next hzero =>
    rw [State.rxHead_empty (Nat.eq_zero_of_not_pos hzero)]
    rfl

theorem stage_sameButRx (s : State) (b : Byte) : SameButRx s (s.stage b) := rfl

theorem dropRx_sameButRx (s : State) : SameButRx s { s with rx := s.rx.drop s.cfg.nRx } := rfl

/-- Settles O30: AVAILABLE pushes the sentinel and RECEIVE drops the head, and both keep the FIFO's invariant. -/
theorem mockGrowthLaw : Obligations.MockGrowthLaw := by
  unfold Obligations.MockGrowthLaw
  intro s ha hi hb hinv
  have hcount : (s.stage Config.mockSentinel).rx.count = min (s.rx.count + 1) s.cfg.nRx := hinv.push_count_eq_min _
  constructor
  · refine ⟨(s.stage Config.mockSentinel).respondSeq (min (s.rx.count + 1) s.cfg.nRx), ?_, rfl, rfl, hcount,
      hinv.push _ rfl, rfl, rfl, (stage_sameButRx s _).respondSeq _⟩
    rw [exec_available ha, if_pos hi, pullByte_mock hb, hcount]
  · refine ⟨{ s with rx := s.rx.drop s.cfg.nRx }.respondSeq (if 0 < s.rx.count then 0xAA else 0), ?_, rfl, rfl,
      Fifo.drop_count _ _, hinv.drop, rfl, rfl, (dropRx_sameButRx s).respondSeq _⟩
    rw [exec_receive ha, if_pos hi, rxHead_toNat_of_sentinels hinv]

end Sys2Proof.Machine

/-! ## A SEND that has to poll more than once (42_backend_primitives.md R134; 41_connection_ops.md R117) -/

namespace Sys2Proof.Machine

variable {s : State} {b ready : Byte} {busy later : List Byte}

/-- The state after `k` polls of the transmitter. -/
def State.polled (s : State) : Nat → State
  | 0 => s
  | k + 1 => s.srReadTx.polled k

/-- What `k` polls and then the turn that finds the transmitter ready leave of a SEND of `b`. -/
def State.sentAfter (s : State) (k : Nat) (b : Byte) : State :=
  ((s.polled k).srReadTx.thrWrite b).respondSeq 1

/-- The next draw of a script is its first value (20_memory.md R54). -/
theorem drawnFlag_of_script (hscript : s.env.script = ready :: later) : s.drawnFlag = ready.getLsbD 0 := by
  rw [State.drawnFlag, Env.value, hscript]

theorem srReadTx_script (hscript : s.env.script = ready :: later) : s.srReadTx.env.script = later :=
  congrArg List.tail hscript

/-- From S_POLL as many polls as the script has busy flags lead back to S_POLL, and the ready one to the write. -/
theorem State.Silent.run_send_polls (h : s.Silent) (hs : s.seq = .idle)
    (hscript : s.env.script = busy ++ ready :: later) (hbusy : ∀ d ∈ busy, d.getLsbD 0 = false)
    (hready : ready.getLsbD 0 = true) :
    core.run (busy.length + 2) (s.goto .sPoll) = .next (s.sentAfter busy.length s.txByte) := by
  induction busy generalizing s with
  | nil => exact h.run_send_ready hs ((drawnFlag_of_script hscript).trans hready)
  | cons d ds ih =>
    obtain ⟨hd, hds⟩ := List.forall_mem_cons.mp hbusy
    have hf : s.drawnFlag = false := (drawnFlag_of_script hscript).trans hd
    have hpoll : phase (s.goto .sPoll) = .next (s.srReadTx.goto .sPoll) := by
      rw [phase_sPoll, if_neg (ne_true_of_eq_false hf)]
    exact (h.run_phase hpoll).trans (ih (h.periphRead _) hs (srReadTx_script hscript) hds)

/-- The step that takes a SEND word makes the first poll, which completes the command or leaves it in S_POLL, from
where the run polls on; the latch is written in the second case only. -/
theorem run_send_word (ha : s.alive = true) (hi : s.initialized = true) (hb : s.cfg.backend = .hardware)
    (hs : s.seq = .idle) (hin : s.inputs = [.seqCmd (0x300 + b.toNat)])
    (hscript : s.env.script = busy ++ ready :: later) (hbusy : ∀ d ∈ busy, d.getLsbD 0 = false)
    (hready : ready.getLsbD 0 = true) :
    ∃ k latch, core.run k s = .next ({ s.quiet.pending [] with txByte := latch }.sentAfter busy.length b) := by
  have hsilent : (s.quiet.pending []).Silent := ⟨rfl, rfl, rfl⟩
  have hstep : step s = .next (sendOrSpin b (s.quiet.pending [])) := by
    rw [step_seqCmd hin hs, takeWord_of_decode (decode_send _ b), exec_send (s := s.quiet.pending []) b ha]
    exact congrArg Host.Outcome.next (if_pos hi)
  cases busy with
  | nil =>
    have hf : (s.quiet.pending []).drawnFlag = true := (drawnFlag_of_script hscript).trans hready
    refine ⟨1, s.txByte, ?_⟩
    rw [run_succ_of_step 0 hstep, sendOrSpin_ready (s := s.quiet.pending []) b hb hf]
    rfl
  | cons d ds =>
    obtain ⟨hd, hds⟩ := List.forall_mem_cons.mp hbusy
    have hf : (s.quiet.pending []).drawnFlag = false := (drawnFlag_of_script hscript).trans hd
    have hpolled : { (s.quiet.pending []).srReadTx with txByte := b }.Silent := hsilent
    refine ⟨ds.length + 3, b, ?_⟩
    rw [run_succ_of_step (ds.length + 2) hstep, sendOrSpin_busy (s := s.quiet.pending []) b hb hf]
    exact hpolled.run_send_polls hs (srReadTx_script hscript) hds hready

/-- Polls that draw 0 append one read each, use up the flags of the script, and change nothing else. -/
theorem polled_busy (hscript : s.env.script = busy ++ later) (hbusy : ∀ d ∈ busy, d.getLsbD 0 = false) :
    s.polled busy.length = { s with
      events := s.events ++ List.replicate busy.length ⟨.read, s.ctrl, .sr, .txrdy false⟩
      env := ⟨later, s.env.rest, s.env.drawn + busy.length⟩ } := by
  induction busy generalizing s with
  | nil =>
    rw [List.length_nil, List.replicate_zero, List.append_nil, Nat.add_zero, ← hscript.trans (List.nil_append _)]
    rfl
  | cons d ds ih =>
    obtain ⟨hd, hds⟩ := List.forall_mem_cons.mp hbusy
    have hf : s.drawnFlag = false := (drawnFlag_of_script hscript).trans hd
    rw [List.length_cons, State.polled, ih (srReadTx_script hscript) hds, srReadTx_of_flag hf]
    simp [State.periphRead, Env.next, regOf, List.replicate_succ, Nat.add_assoc, Nat.add_comm 1]

/-- The own `THR` holds the byte that is written to it (10_state.md R34). -/
theorem thrWrite_thr (s : State) (b : Byte) : ((s.thrWrite b).periph.get s.ctrl).thr = b := by
  rw [State.thrWrite, State.periphWrite_periph, PeriphBank.get_set, storeReg]

/-- Settles O33: the run polls through the busy flags and ends with the write; the history is read off the state it
ends in. -/
theorem sendCompletesAfterBusyPolls : Obligations.SendCompletesAfterBusyPolls := by
  unfold Obligations.SendCompletesAfterBusyPolls
  intro s b ready busy later ha hi hb hs hin hscript hbusy hready
  obtain ⟨k, latch, hrun⟩ := run_send_word ha hi hb hs hin hscript hbusy hready
  refine ⟨k, _, hrun, ?_⟩
  rw [State.sentAfter, polled_busy (s := { s.quiet.pending [] with txByte := latch }) hscript hbusy]
  exact ⟨hs, rfl, thrWrite_srReadTx_events b hready, rfl, rfl, rfl, rfl, hi, thrWrite_thr _ b⟩

end Sys2Proof.Machine

/-! ## Whose registers a step touches (42_backend_primitives.md R149) -/

namespace Sys2Proof.Machine

variable {s t : State}

/-- From `s` to `t` only registers of the identity `t` is bound to may change. -/
def KeepsOtherRegs (s t : State) : Prop := ∀ c, c ≠ t.ctrl → t.periph.get c = s.periph.get c

theorem KeepsOtherRegs.of_periph_eq (h : t.periph = s.periph) : KeepsOtherRegs s t := fun c _ => by rw [h]

/-- Only the registers of the own identity are replaced. -/
theorem KeepsOtherRegs.of_periph_set {r : PeriphRegs} (h : t.periph = s.periph.set t.ctrl r) : KeepsOtherRegs s t :=
  fun c hc => by rw [h, PeriphBank.get_set_other _ _ _ _ hc]

theorem keepsOtherRegs_periphWrite (s : State) (v : PVal) : KeepsOtherRegs s (s.periphWrite v) := .of_periph_set rfl

theorem keepsOtherRegs_bringUp (s : State) : KeepsOtherRegs s s.bringUp := by
  cases hb : s.cfg.backend with
  | hardware =>
    rw [s.bringUp_hardware hb]
    exact .of_periph_set rfl
  | mock =>
    rw [s.bringUp_mock hb]
    exact .of_periph_eq rfl

theorem keepsOtherRegs_beginConnection (h : beginConnection s = .next t) : KeepsOtherRegs s t := by
  rcases beginConnection_next h with ⟨_, rfl⟩ | ⟨_, _, rfl⟩
  · exact .of_periph_eq rfl
  · exact keepsOtherRegs_bringUp s

theorem keepsOtherRegs_enableTransport (s : State) : KeepsOtherRegs s s.enableTransport := by
  rcases enableTransport_cases s with ⟨_, he⟩ | ⟨_, he⟩
  · rw [he]
    exact keepsOtherRegs_periphWrite s _
  · rw [he]
    exact .of_periph_eq rfl

theorem keepsOtherRegs_disableTransport (s : State) : KeepsOtherRegs s s.disableTransport := by
  rcases disableTransport_cases s with ⟨_, he⟩ | ⟨_, he⟩
  · rw [he]
    exact keepsOtherRegs_periphWrite s _
  · rw [he]
    exact .of_periph_eq rfl

/-- The polls of SEND leave the registers, and its write is of the own `THR`. -/
theorem keepsOtherRegs_sendOrSpin (b : Byte) (s : State) : KeepsOtherRegs s (sendOrSpin b s) := by
  rcases sendOrSpin_cases b s with ⟨_, _, he⟩ | ⟨_, _, he⟩ | ⟨_, he⟩
  · rw [he]
    exact .of_periph_eq rfl
  · rw [he]
    exact .of_periph_set rfl
  · rw [he]
    exact .of_periph_eq rfl

theorem SameButRx.periph (h : SameButRx s t) : t.periph = s.periph := by rw [h]

theorem keepsOtherRegs_exec {i : Instr} (h : exec i s = .next t) : KeepsOtherRegs s t := by
  rcases exec_next h with ⟨_, f, v, rfl⟩ | ⟨_, ⟨_, u, hu, rfl⟩ | ⟨_, _, rfl⟩ | ⟨_, _, rfl⟩ | ⟨_, b, _, rfl⟩ |
    ⟨_, _, rfl⟩ | ⟨_, rfl⟩ | ⟨_, rfl⟩ | ⟨_, rfl⟩ | ⟨_, rfl⟩⟩
  · exact .of_periph_eq rfl
  · have hbegun : KeepsOtherRegs s u := keepsOtherRegs_beginConnection hu
    exact hbegun
  · exact .of_periph_eq rfl
  · exact .of_periph_eq (pullByte_sameButRx s).periph
  · exact keepsOtherRegs_sendOrSpin b s
  · exact .of_periph_eq rfl
  · exact .of_periph_eq rfl
  · exact keepsOtherRegs_enableTransport s
  · exact keepsOtherRegs_disableTransport s
  · exact keepsOtherRegs_disableTransport s

/-- The reads of a phase leave the registers, and its writes are of the own identity (41_connection_ops.md R117). -/
theorem keepsOtherRegs_phase (h : phase s = .next t) : KeepsOtherRegs s t := by
  rcases phase_next h with ⟨_, rfl⟩ | ⟨_, rfl⟩ | ⟨_, rfl⟩ | ⟨_, rfl⟩ | ⟨_, rfl⟩ | ⟨_, _, rfl⟩ | ⟨_, rfl⟩ | ⟨_, rfl⟩ |
    ⟨_, rfl⟩ | ⟨_, rfl⟩ | ⟨_, _, rfl⟩ | ⟨_, _, rfl⟩ | ⟨_, rfl⟩ | ⟨_, _, rfl⟩ | ⟨_, _, rfl⟩ | ⟨_, rfl⟩
  any_goals exact .of_periph_eq rfl
  all_goals exact .of_periph_set rfl

/-- A construction makes the accesses of its eager BEGIN at most, on the identity it takes (70_reset_and_hazards.md
R193, R194). -/
theorem keepsOtherRegs_construct {straps : Straps} (h : construct straps s = .next t) : KeepsOtherRegs s t := by
  obtain ⟨_, _, c, _, _, ⟨_, hbegin⟩ | ⟨_, rfl⟩⟩ := construct_next h
  · have hfresh : KeepsOtherRegs (s.freshConnection straps.baud c) t := keepsOtherRegs_beginConnection hbegin
    exact hfresh
  · exact .of_periph_eq rfl

theorem SameButHost.periph (h : SameButHost s t) : t.periph = s.periph := by rw [h]

/-- Settles O49: what a step makes of the registers is made by a phase, a command or a construction. -/
theorem otherIdentitiesRegistersAreUntouched : Obligations.OtherIdentitiesRegistersAreUntouched := by
  unfold Obligations.OtherIdentitiesRegistersAreUntouched
  intro s t c h hc
  obtain ⟨u, hu, hp | ⟨i, he, _⟩ | ⟨_, straps, hcon⟩ | rfl⟩ := step_effect h
  · rw [keepsOtherRegs_phase hp c hc, hu.periph]
  · rw [keepsOtherRegs_exec he c hc, hu.periph]
  · rw [keepsOtherRegs_construct hcon c hc, hu.periph]
  · rw [hu.periph]

end Sys2Proof.Machine

/-! ## A SEND whose polls all fail, and the reset that ends it (60_exceptions.md R164; 70_reset_and_hazards.md R190,
R202)

A step of the hang is `State.srReadTx` on quiet ports, whatever the host's list holds; how far the list gets is the only
difference between the hang alone and the hang before a reset. -/

namespace Sys2Proof.Machine

variable {s : State}

theorem Env.NeverReady.next {e : Env} (h : e.NeverReady) : e.next.NeverReady := fun n => h (n + 1)

theorem Env.NeverReady.drawnFlag (h : s.env.NeverReady) : s.drawnFlag = false := h 0

/-- A poll that fails leaves the command in S_POLL. -/
theorem phase_sPoll_busy (hs : s.seq = .sPoll) (hf : s.drawnFlag = false) : phase s = .next s.srReadTx := by
  calc phase s
    _ = phase (s.goto .sPoll) := by rw [State.goto, ← hs]
    _ = .next (s.srReadTx.goto .sPoll) := by rw [phase_sPoll, if_neg (ne_true_of_eq_false hf)]
    _ = .next s.srReadTx := by
      rw [State.goto, ← hs]
      rfl

/-- A step that makes the phase of a hanging SEND polls once; `l` is what it leaves pending. -/
theorem step_sPoll_busy {l : List Input} (hs : s.seq = .sPoll) (hn : s.env.NeverReady)
    (hstep : step s = phase (s.quiet.pending l)) : step s = .next (s.quiet.pending l).srReadTx :=
  hstep.trans (phase_sPoll_busy (s := s.quiet.pending l) hs hn.drawnFlag)

/-- Polls that never find the transmitter ready append one read of 0 each and use up one draw each. -/
theorem polled_neverReady (hn : s.env.NeverReady) (k : Nat) :
    s.polled k = { s with
      events := s.events ++ List.replicate k ⟨.read, s.ctrl, .sr, .txrdy false⟩
      env := s.env.afterDraws k } := by
  induction k generalizing s with
  | zero =>
    rw [List.replicate_zero, List.append_nil]
    rfl
  | succ k ih =>
    rw [State.polled, ih (s := s.srReadTx) hn.next, srReadTx_of_flag hn.drawnFlag]
    simp [State.periphRead, Env.afterDraws, regOf, List.replicate_succ]

/-! The step of the hang for each of the two lists, and the runs of such steps. -/

theorem not_idle_of_sPoll (hs : s.seq = .sPoll) : s.seq ≠ .idle := by simp [hs]

theorem step_hang_held (hs : s.seq = .sPoll) (hn : s.env.NeverReady) (hw : ∀ x ∈ s.inputs, x.waits = true) :
    step s = .next s.quiet.srReadTx :=
  step_sPoll_busy (l := s.inputs) hs hn (step_of_all_wait (not_idle_of_sPoll hs) hw)

theorem step_hang_idle {held rest : List Input} (hs : s.seq = .sPoll) (hn : s.env.NeverReady)
    (hw : ∀ x ∈ held, x.waits = true) (hin : s.inputs = held ++ .idle :: rest) :
    step s = .next (s.quiet.pending (held ++ rest)).srReadTx :=
  step_sPoll_busy hs hn (step_past_held (not_idle_of_sPoll hs) hin hw rfl)

/-- With nothing but held inputs pending, each step of the hang polls once and takes none of them. -/
theorem run_hang_held (hs : s.seq = .sPoll) (hn : s.env.NeverReady) (hw : ∀ x ∈ s.inputs, x.waits = true) (k : Nat) :
    core.run (k + 1) s = .next (s.quiet.polled (k + 1)) := by
  induction k generalizing s with
  | zero => exact run_succ_of_step 0 (step_hang_held hs hn hw)
  | succ k ih =>
    rw [run_succ_of_step (k + 1) (step_hang_held hs hn hw)]
    exact ih (s := s.quiet.srReadTx) hs hn.next hw

/-- A construction that is neither refused nor eager gives the fresh connection (70_reset_and_hazards.md R192). -/
theorem construct_lazy {straps : Straps} {c : CtrlId} (hgood : GoodStraps s straps c) (he : straps.eager = false) :
    construct straps s = .next (s.freshConnection straps.baud c) := by
  obtain ⟨hbaud, hctrl, hfree, hcap⟩ := hgood
  simp only [construct, hbaud, hctrl, ctrlOfCode_ctrlCode, hfree, hcap, he, if_false, Bool.false_eq_true]

/-- The steps of the hang use up the idle cycles in front of the reset; the reset then withdraws what is held and makes
the connection new, with the draws of those polls used up. -/
theorem run_hang_reset {held rest : List Input} {straps : Straps} {c : CtrlId} (k : Nat) (hs : s.seq = .sPoll)
    (hn : s.env.NeverReady) (hw : ∀ x ∈ held, x.waits = true)
    (hin : s.inputs = held ++ (List.replicate k .idle ++ .seqReset straps :: rest)) (hgood : GoodStraps s straps c)
    (he : straps.eager = false) :
    core.run (k + 1) s = .next (((s.quiet.pending rest).polled k).freshConnection straps.baud c) := by
  induction k generalizing s with
  | zero =>
    have hreset : step s = construct straps (s.quiet.pending rest) :=
      step_past_held (not_idle_of_sPoll hs) hin hw rfl
    exact run_succ_of_step 0 (hreset.trans (construct_lazy (s := s.quiet.pending rest) hgood he))
  | succ k ih =>
    rw [List.replicate_succ, List.cons_append] at hin
    rw [run_succ_of_step (k + 1) (step_hang_idle hs hn hw hin)]
    exact ih hs hn.next rfl hgood

/-! ### The statements about the hang -/

/-- Settles O34: after the first step the state is that of `k` polls on quiet ports, read off `polled_neverReady`. -/
theorem sendHangsWhileEveryPollFails : Obligations.SendHangsWhileEveryPollFails := by
  unfold Obligations.SendHangsWhileEveryPollFails
  intro s k _ hs hn hw
  cases k with
  | zero => exact ⟨s, rfl, hs, rfl, (List.append_nil _).symm, rfl, rfl, rfl, rfl, rfl, rfl, fun h => absurd rfl h⟩
  | succ k =>
    refine ⟨_, run_hang_held hs hn hw k, ?_⟩
    rw [polled_neverReady (s := s.quiet) hn]
    exact ⟨hs, rfl, rfl, rfl, rfl, rfl, rfl, rfl, rfl, fun _ => rfl⟩

/-- Settles O60: a new connection keeps of the polls only the draws they used up. -/
theorem resetEndsAHang : Obligations.ResetEndsAHang := by
  unfold Obligations.ResetEndsAHang
  intro s held rest k straps c _ hs hn hw hin hbaud hctrl hfree hcap he
  rw [List.append_assoc] at hin
  rw [run_hang_reset k hs hn hw hin ⟨hbaud, hctrl, hfree, hcap⟩ he,
    polled_neverReady (s := s.quiet.pending rest) hn]
  rfl

end Sys2Proof.Machine

/-! ## What a step is refused for (60_exceptions.md R160, R176; log entries 13, 15, 16, 17, 20)

First a rule for each input the step can take; then one table of the refusals, which a step agrees with in both
directions. -/

namespace Sys2Proof.Machine

variable {s : State} {r : Refusal} {word : Nat}

/-- No step faults: the type of faults is empty (60_exceptions.md R169). -/
theorem step_ne_fault (s : State) (f : Fault) : step s ≠ .fault f := nomatch f

/-- The divisor of a bring-up at the rate `baud` does not fit `BRG` (42_backend_primitives.md R138). -/
def WideDivisor (s : State) (baud : Word32) : Prop := 2 ^ s.cfg.brgW ≤ s.cfg.clkConst / baud.toNat

theorem step_of_takes {x : Input} (h : Takes s x) : ∃ rest, step s = (onInput x s.held rest s.quiet).outcome := by
  obtain ⟨rest, hdue⟩ := h
  exact ⟨rest, step_of_due ⟨hdue, rfl⟩⟩

/-- A step makes a phase, or takes an input that asks for more. -/
theorem makesPhase_or_takes (s : State) : MakesPhase s ∨ ∃ x, Takes s x := by
  cases hdue : s.due with
  | nil => exact .inl (.inl hdue)
  | cons x rest => exact .inr ⟨x, rest, hdue⟩

/-! What each input is refused for. -/

theorem step_phase_refused (h : MakesPhase s) :
    step s = .refused r ↔ r = .divisorTooWide ∧ s.seq = .bBaud ∧ WideDivisor s s.baud := by
  rcases h with hnil | hidle
  · rw [step_nothing_due hnil]
    exact phase_refused (s := s.quiet)
  · obtain ⟨rest, hstep⟩ := step_of_takes hidle
    rw [hstep]
    exact phase_refused (s := s.quiet.pending (s.held ++ rest))

/-- A word is refused for its encoding, or for what its command is refused for (60_exceptions.md R168). -/
theorem takeWord_refused {p : Port} : (takeWord p word s).outcome = .refused r ↔
    (r = .reservedEncoding ∧ ∀ i, decode s.cfg.w p word ≠ .ok i) ∨
      ∃ i, decode s.cfg.w p word = .ok i ∧ exec i s = .refused r := by
  cases hd : decode s.cfg.w p word with
  | error e => simp [takeWord, hd, Action.outcome, eq_comm]
  | ok i => simp [takeWord, hd, Action.outcome]

/-- A word on the FIFO's port is refused for its encoding alone (40_fifo_ops.md R80). -/
theorem step_fifoCmd_refused (h : Takes s (.fifoCmd word)) :
    step s = .refused r ↔ r = .reservedEncoding ∧ ReservedFifoWord s.cfg.w word := by
  obtain ⟨rest, hstep⟩ := step_of_takes h
  rw [hstep, reservedFifoWord_iff]
  refine takeWord_refused.trans (or_iff_left ?_)
  rintro ⟨i, hdec, hex⟩
  have hseq : i.port = .seq := (exec_refused.mp hex).1
  cases hseq.symm.trans (port_of_decode_fifo hdec)

theorem decode_seq_eq_begin_iff {w : Nat} : decode w .seq word = .ok .begin ↔ word = 0x100 :=
  decode_ok_iff_encode.trans ⟨fun ⟨_, _, h⟩ => h.symm, fun h => ⟨rfl, rfl, h.symm⟩⟩

/-- A word on the sequencer's port is refused for its encoding, for a destroyed connection (41_connection_ops.md
R109), or because it is BEGIN with a divisor too wide (42_backend_primitives.md R138). -/
theorem step_seqCmd_refused (h : Takes s (.seqCmd word)) : step s = .refused r ↔
    (r = .reservedEncoding ∧ ReservedSeqWord word) ∨
    (r = .notAlive ∧ s.alive = false ∧ ¬ ReservedSeqWord word) ∨
    (r = .divisorTooWide ∧ word = 0x100 ∧ s.alive = true ∧ s.initialized = false ∧ s.cfg.backend = .hardware ∧
      WideDivisor s s.baud) := by
  obtain ⟨rest, hstep⟩ := step_of_takes h
  rw [hstep, reservedSeqWord_iff (w := s.cfg.w)]
  refine takeWord_refused.trans (or_congr_right ⟨?_, ?_⟩)
  · rintro ⟨i, hdec, hex⟩
    obtain ⟨_, ⟨ha, rfl⟩ | ⟨ha, rfl, hbegin⟩⟩ := exec_refused.mp hex
    · exact .inl ⟨rfl, ha, fun hres => hres i hdec⟩
    · obtain ⟨rfl, hi, hb, hwide⟩ := beginConnection_refused.mp hbegin
      exact .inr ⟨rfl, decode_seq_eq_begin_iff.mp hdec, ha, hi, hb, hwide⟩
  · rintro (⟨rfl, ha, hres⟩ | ⟨rfl, hword, ha, hi, hb, hwide⟩)
    · obtain ⟨i, hdec⟩ := Classical.not_forall_not.mp hres
      have hport : i.port = .seq := (decode_ok_iff_encode.mp hdec).1
      exact ⟨i, hdec, exec_refused.mpr ⟨hport, .inl ⟨ha, rfl⟩⟩⟩
    · have hbegin : beginConnection (s.quiet.pending (s.held ++ rest)) = .refused .divisorTooWide :=
        beginConnection_refused.mpr ⟨rfl, hi, hb, hwide⟩
      exact ⟨.begin, decode_seq_eq_begin_iff.mpr hword, exec_refused.mpr ⟨rfl, .inr ⟨ha, rfl, hbegin⟩⟩⟩

theorem step_fifoReset_refused (h : Takes s .fifoReset) :
    step s = .refused r ↔ r = .badCapacity ∧ s.cfg.n = 0 := by
  obtain ⟨rest, hstep⟩ := step_of_takes h
  rw [hstep]
  by_cases hn : s.cfg.n = 0
  · simp [onInput, Action.outcome, fifoConstruct, hn, eq_comm]
  · simp [onInput, Action.outcome, fifoConstruct, hn]

/-- A reset of the sequencer is refused for what its construction is refused for. -/
theorem step_seqReset_refused {straps : Straps} (h : Takes s (.seqReset straps)) :
    step s = .refused r ↔ construct straps s = .refused r := by
  obtain ⟨rest, hstep⟩ := step_of_takes h
  rw [hstep, construct_refused]
  exact construct_refused (s := s.quiet.pending rest)

theorem step_pseudo_refused {p : Pseudo} (h : Takes s (.pseudo p)) :
    step s = .refused r ↔ runPseudo p s = .refused r := by
  obtain ⟨rest, hstep⟩ := step_of_takes h
  rw [hstep, runPseudo_refused]
  exact runPseudo_refused (s := s.quiet.pending (s.held ++ rest))

theorem step_hostResult_not_refused {result : Bool} (h : Takes s (.hostResult result)) : step s ≠ .refused r := by
  obtain ⟨rest, hstep⟩ := step_of_takes h
  rw [hstep]
  exact fun hrefused => nomatch hrefused

/-! The table of the refusals. -/

/-- What a step takes, from which state, where it is refused for a reason (60_exceptions.md R176). -/
def RefusedFor (s : State) : Refusal → Prop
  | .notModelled _ => False
  | .reservedEncoding =>
    (∃ word, Takes s (.fifoCmd word) ∧ ReservedFifoWord s.cfg.w word) ∨
      ∃ word, Takes s (.seqCmd word) ∧ ReservedSeqWord word
  | .notAlive => s.alive = false ∧
    ((∃ word, Takes s (.seqCmd word) ∧ ¬ ReservedSeqWord word) ∨ ∃ p, Takes s (.pseudo p))
  | .badController => ∃ straps, Takes s (.seqReset straps) ∧ straps.baud ≠ 0#32 ∧ straps.ctrl = 3#2
  | .badBaud => ∃ straps, Takes s (.seqReset straps) ∧ straps.baud = 0#32
  | .divisorTooWide =>
    (Takes s (.seqCmd 0x100) ∧ s.alive = true ∧ s.initialized = false ∧ s.cfg.backend = .hardware ∧
      WideDivisor s s.baud) ∨
    (∃ straps c, Takes s (.seqReset straps) ∧ GoodStraps s straps c ∧ straps.eager = true ∧
      s.cfg.backend = .hardware ∧ WideDivisor s straps.baud) ∨
    (MakesPhase s ∧ s.seq = .bBaud ∧ WideDivisor s s.baud)
  | .badCapacity => (Takes s .fifoReset ∧ s.cfg.n = 0) ∨
    ∃ straps c, Takes s (.seqReset straps) ∧ straps.baud ≠ 0#32 ∧ straps.ctrl = ctrlCode c ∧
      c ∉ s.othersLive ∧ s.cfg.nRx = 0
  | .noTerminator => s.alive = true ∧
    ∃ bytes, (Takes s (.pseudo (.sendz bytes)) ∨ Takes s (.pseudo (.insText bytes))) ∧ ∀ b ∈ bytes, b ≠ 0#8
  | .sharedController => ∃ straps c, Takes s (.seqReset straps) ∧ straps.baud ≠ 0#32 ∧
    straps.ctrl = ctrlCode c ∧ c ∈ s.othersLive

/-- A refused construction stands in the table. -/
theorem refusedFor_of_seqReset {straps : Straps} (ht : Takes s (.seqReset straps))
    (h : construct straps s = .refused r) : RefusedFor s r := by
  rcases construct_refused.mp h with ⟨rfl, hbaud⟩ | ⟨rfl, hbaud, hctrl⟩ | ⟨rfl, hbaud, c, hctrl, hshared⟩ |
    ⟨rfl, hbaud, c, hctrl, hfree, hcap⟩ | ⟨rfl, c, hgood, he, hb, hwide⟩
  · exact ⟨straps, ht, hbaud⟩
  · exact ⟨straps, ht, hbaud, hctrl⟩
  · exact ⟨straps, c, ht, hbaud, hctrl, hshared⟩
  · exact .inr ⟨straps, c, ht, hbaud, hctrl, hfree, hcap⟩
  · exact .inr (.inl ⟨straps, c, ht, hgood, he, hb, hwide⟩)

/-- A refused pseudo-instruction stands in the table. -/
theorem refusedFor_of_pseudo {p : Pseudo} (ht : Takes s (.pseudo p)) (h : runPseudo p s = .refused r) :
    RefusedFor s r := by
  obtain ⟨rfl, ha⟩ | ⟨rfl, ha, bytes, rfl | rfl, hz⟩ := runPseudo_refused.mp h
  · exact ⟨ha, .inr ⟨p, ht⟩⟩
  · exact ⟨ha, bytes, .inl ht, hz⟩
  · exact ⟨ha, bytes, .inr ht, hz⟩

/-- Nothing is refused that the table does not name: for each input, its rule. -/
theorem refusedFor_of_step (h : step s = .refused r) : RefusedFor s r := by
  have ofPhase (hm : MakesPhase s) : RefusedFor s r := by
    obtain ⟨rfl, hs, hwide⟩ := (step_phase_refused hm).mp h
    exact .inr (.inr ⟨hm, hs, hwide⟩)
  obtain hm | ⟨x, ht⟩ := makesPhase_or_takes s
  · exact ofPhase hm
  cases x with
  | idle => exact ofPhase (.inr ht)
  | fifoCmd word =>
    obtain ⟨rfl, hres⟩ := (step_fifoCmd_refused ht).mp h
    exact .inl ⟨word, ht, hres⟩
  | seqCmd word =>
    rcases (step_seqCmd_refused ht).mp h with ⟨rfl, hres⟩ | ⟨rfl, ha, hres⟩ | ⟨rfl, rfl, hbegin⟩
    · exact .inr ⟨word, ht, hres⟩
    · exact ⟨ha, .inl ⟨word, ht, hres⟩⟩
    · exact .inl ⟨ht, hbegin⟩
  | fifoReset =>
    obtain ⟨rfl, hn⟩ := (step_fifoReset_refused ht).mp h
    exact .inl ⟨ht, hn⟩
  | seqReset straps => exact refusedFor_of_seqReset ht ((step_seqReset_refused ht).mp h)
  | pseudo p => exact refusedFor_of_pseudo ht ((step_pseudo_refused ht).mp h)
  | hostResult result => exact absurd h (step_hostResult_not_refused ht)

/-- Everything the table names is refused: for each reason, the rules of the inputs it names. -/
theorem step_of_refusedFor (h : RefusedFor s r) : step s = .refused r := by
  cases r with
  | notModelled m => exact h.elim
  | reservedEncoding =>
    obtain ⟨word, ht, hres⟩ | ⟨word, ht, hres⟩ := h
    · exact (step_fifoCmd_refused ht).mpr ⟨rfl, hres⟩
    · exact (step_seqCmd_refused ht).mpr (.inl ⟨rfl, hres⟩)
  | notAlive =>
    obtain ⟨ha, ⟨word, ht, hres⟩ | ⟨p, ht⟩⟩ := h
    · exact (step_seqCmd_refused ht).mpr (.inr (.inl ⟨rfl, ha, hres⟩))
    · exact (step_pseudo_refused ht).mpr (runPseudo_refused.mpr (.inl ⟨rfl, ha⟩))
  | badBaud =>
    obtain ⟨straps, ht, hbaud⟩ := h
    exact (step_seqReset_refused ht).mpr (construct_refused.mpr (.inl ⟨rfl, hbaud⟩))
  | badController =>
    obtain ⟨straps, ht, hbad⟩ := h
    exact (step_seqReset_refused ht).mpr (construct_refused.mpr (.inr (.inl ⟨rfl, hbad⟩)))
  | sharedController =>
    obtain ⟨straps, c, ht, hbaud, hctrl, hshared⟩ := h
    exact (step_seqReset_refused ht).mpr
      (construct_refused.mpr (.inr (.inr (.inl ⟨rfl, hbaud, c, hctrl, hshared⟩))))
  | badCapacity =>
    obtain ⟨ht, hn⟩ | ⟨straps, c, ht, hbaud, hctrl, hcap⟩ := h
    · exact (step_fifoReset_refused ht).mpr ⟨rfl, hn⟩
    · exact (step_seqReset_refused ht).mpr
        (construct_refused.mpr (.inr (.inr (.inr (.inl ⟨rfl, hbaud, c, hctrl, hcap⟩)))))
  | noTerminator =>
    obtain ⟨ha, bytes, ht | ht, hz⟩ := h
    · exact (step_pseudo_refused ht).mpr (runPseudo_refused.mpr (.inr ⟨rfl, ha, bytes, .inl rfl, hz⟩))
    · exact (step_pseudo_refused ht).mpr (runPseudo_refused.mpr (.inr ⟨rfl, ha, bytes, .inr rfl, hz⟩))
  | divisorTooWide =>
    obtain ⟨ht, hbegin⟩ | ⟨straps, c, ht, hwide⟩ | ⟨hm, hwide⟩ := h
    · exact (step_seqCmd_refused ht).mpr (.inr (.inr ⟨rfl, rfl, hbegin⟩))
    · exact (step_seqReset_refused ht).mpr (construct_refused.mpr (.inr (.inr (.inr (.inr ⟨rfl, c, hwide⟩)))))
    · exact (step_phase_refused hm).mpr ⟨rfl, hwide⟩

theorem step_refused_iff : step s = .refused r ↔ RefusedFor s r := ⟨refusedFor_of_step, step_of_refusedFor⟩

/-- Settles O11: each line of the statement is a line of the table. -/
theorem stepRefusesExactlyTheseInputs : Obligations.StepRefusesExactlyTheseInputs := by
  unfold Obligations.StepRefusesExactlyTheseInputs
  intro s
  exact ⟨step_ne_fault s, fun _ => step_refused_iff.mp, step_refused_iff, step_refused_iff, step_refused_iff,
    step_refused_iff, step_refused_iff, step_refused_iff, step_refused_iff, step_refused_iff⟩

end Sys2Proof.Machine

/-! ## The step that takes a reset (70_reset_and_hazards.md R190 to R194; log entries 2, 14, 15, 16)

A reset waits for nothing: where it stands first, the step is the FIFO's reset or the construction on quiet ports. -/

namespace Sys2Proof.Machine

variable {s : State} {straps : Straps} {c : CtrlId} {rest : List Input}

theorem step_fifoReset (hin : s.inputs = .fifoReset :: rest) : step s = fifoConstruct (s.quiet.pending rest) :=
  step_of_due (State.due_of_head hin rfl)

theorem step_seqReset (hin : s.inputs = .seqReset straps :: rest) :
    step s = construct straps (s.quiet.pending rest) :=
  step_of_due (State.due_of_head hin rfl)

theorem fifoConstruct_noSlots (hn : s.cfg.n = 0) : fifoConstruct s = .refused .badCapacity := if_pos hn

theorem fifoConstruct_fresh (hn : s.cfg.n ≠ 0) :
    fifoConstruct s = .next { s with fifo := Fifo.fresh, fifoRsp := none, fifoLog := [] } := if_neg hn

/-- A construction whose straps are good and eager is BEGIN on the fresh connection (R193). -/
theorem construct_eager (hgood : GoodStraps s straps c) (he : straps.eager = true) :
    construct straps s = beginConnection (s.freshConnection straps.baud c) := by
  obtain ⟨hbaud, hctrl, hfree, hcap⟩ := hgood
  simp only [construct, hbaud, hctrl, ctrlOfCode_ctrlCode, hfree, hcap, he, if_false, if_true]

/-- An eager construction whose divisor fits makes the bring-up of the fresh connection and sets the flag. -/
theorem construct_eager_fits (hgood : GoodStraps s straps c) (he : straps.eager = true)
    (hfits : s.cfg.backend = .hardware → s.cfg.clkConst / straps.baud.toNat < 2 ^ s.cfg.brgW) :
    construct straps s = .next { (s.freshConnection straps.baud c).bringUp with initialized := true } := by
  rw [construct_eager hgood he]
  exact beginConnection_uninitialized rfl fun hb => divisorTooWide_of_lt (hfits hb)

/-- A reset of the sequencer that stands first is refused for what a construction is refused for from that state: the
quiet ports and the list do not matter to it. -/
theorem step_seqReset_refused_of_construct {r : Refusal} (hin : s.inputs = .seqReset straps :: rest)
    (h : construct straps s = .refused r) : step s = .refused r :=
  (step_seqReset_refused ⟨rest, (State.due_of_head hin rfl).1⟩).mpr h

/-! ### The statements about resets -/

/-- Settles O21: the two cases of the FIFO's reset, and a fresh FIFO has no stored slot. -/
theorem fifoResetFollowsItsRule : Obligations.FifoResetFollowsItsRule := by
  unfold Obligations.FifoResetFollowsItsRule
  intro s rest hin
  constructor
  · intro hn
    rw [step_fifoReset hin]
    exact fifoConstruct_noSlots (s := s.quiet.pending rest) hn
  · intro hn
    refine ⟨_, (step_fifoReset hin).trans (fifoConstruct_fresh (s := s.quiet.pending rest) hn), ?_⟩
    exact ⟨rfl, rfl, rfl, Fifo.fresh_stored, rfl, rfl, rfl⟩

/-- Settles O40: without the eager flag the construction ends with the fresh connection. -/
theorem constructionResetsTheConnection : Obligations.ConstructionResetsTheConnection := by
  unfold Obligations.ConstructionResetsTheConnection
  intro s straps rest c hin hbaud hctrl hfree hcap he
  rw [step_seqReset hin]
  exact construct_lazy (s := s.quiet.pending rest) ⟨hbaud, hctrl, hfree, hcap⟩ he

/-- Settles O41: the bring-up of the fresh connection is nothing on the mock, and on hardware the eight writes in an
empty history. -/
theorem eagerConstructionBringsUp : Obligations.EagerConstructionBringsUp := by
  unfold Obligations.EagerConstructionBringsUp
  intro s straps rest c hin hbaud hctrl hfree hcap he
  have hgood : GoodStraps (s.quiet.pending rest) straps c := ⟨hbaud, hctrl, hfree, hcap⟩
  rw [step_seqReset hin]
  constructor
  · intro hb
    rw [construct_eager_fits hgood he (fun hhard => nomatch hb.symm.trans hhard),
      ((s.quiet.pending rest).freshConnection straps.baud c).bringUp_mock hb]
    rfl
  · intro hb hfits
    rw [construct_eager_fits hgood he fun _ => hfits,
      ((s.quiet.pending rest).freshConnection straps.baud c).bringUp_hardware hb]
    rfl

/-- Settles O42: each line of the statement is a case of what a construction is refused for. -/
theorem badConstructionsAreRefused : Obligations.BadConstructionsAreRefused := by
  unfold Obligations.BadConstructionsAreRefused
  intro s straps rest hin
  have refuse {r : Refusal} (h : construct straps s = .refused r) : step s = .refused r :=
    step_seqReset_refused_of_construct hin h
  refine ⟨fun hbaud => ?badBaud, fun hbaud hctrl => ?badController, fun c hbaud hctrl hshared => ?sharedController,
    fun c hbaud hctrl hfree hcap => ?badCapacity, fun c hbaud hctrl hfree hcap he hb hwide => ?divisorTooWide⟩
  case badBaud => exact refuse (construct_refused.mpr (.inl ⟨rfl, hbaud⟩))
  case badController => exact refuse (construct_refused.mpr (.inr (.inl ⟨rfl, hbaud, hctrl⟩)))
  case sharedController =>
    exact refuse (construct_refused.mpr (.inr (.inr (.inl ⟨rfl, hbaud, c, hctrl, hshared⟩))))
  case badCapacity =>
    exact refuse (construct_refused.mpr (.inr (.inr (.inr (.inl ⟨rfl, hbaud, c, hctrl, hfree, hcap⟩)))))
  case divisorTooWide =>
    exact refuse (construct_refused.mpr
      (.inr (.inr (.inr (.inr ⟨rfl, c, ⟨hbaud, hctrl, hfree, hcap⟩, he, hb, hwide⟩)))))

end Sys2Proof.Machine
